-- ==== Sys2Proof/Word.lean ====
section
/-! DEFINITION. The data word of PKGD: what one bus access moves and what one control register holds. -/

namespace Sys2Proof

/-- A 32-bit word: the unit of every host access (R202) and the width of every control register (R100). -/
abbrev Word := BitVec 32

end Sys2Proof
end

