-- ==== Sys2Proof/Config.lean ====
section
/-! DEFINITION. The parameters the block is built with (R8), with the values R8 gives as defaults, what every build
has in common, and the values the spec leaves free, as constants with no body. -/

namespace Sys2Proof.Config

/-- The default of `KB_MIN` (R8). -/
def kbMin : Nat := 8

/-- The default of `KB_MAX` (R8). -/
def kbMax : Nat := 3096

/-- The default of `KB_DEF` (R8). -/
def kbDef : Nat := 64

/-- The default of `CERT_DEF` (R8). -/
def certDef : Nat := 64

/-- `SLOT`: bytes of each buffer's address slot (R8). -/
def slot : Nat := 0x400

/-- `WINDOW`: bytes of the register window (R8, R200). -/
def window : Nat := 0x2400

/-- `BASE`: the window's base in the host's address space, which R8 leaves open (D5, I-20). The block sees
offsets from it only. -/
opaque base : Nat

/-- The property "is a probable prime at certainty `cert`", named and uninterpreted (R9, I-2). The machine never
tests it. -/
opaque ProbablePrime : Nat → Nat → Prop

/-- What a host read of a buffer word returns while a command runs: unspecified, one draw per read (R209, I-11).
FREE VALUE, applied to `State.freeCtr` (log entry 4, DESIGN CHOICE of form, safe). -/
opaque freeReadWord : Nat → Word

/-- Whether the service answers when no event is queued: R830 leaves the latency unbounded (I-6).
FREE VALUE, applied to `State.freeCtr` (log entry 2, DESIGN CHOICE of form, safe). -/
opaque freeServiceTurn : Nat → Bool

/-- What PRIMEGEN or RAND returns when no queued event says so: a draw (R141, R142, I-1, I-4).
FREE VALUE, applied to `State.freeCtr` (log entry 2, DESIGN CHOICE of form, safe). -/
opaque freeDraw : Nat → Nat

end Sys2Proof.Config

namespace Sys2Proof

/-- The parameters a block is built with (R8, D39), fixed for the block. -/
structure Build where
  /-- `KB_MIN`: smallest accepted requested key size in bits. -/
  kbMin : Nat
  /-- `KB_MAX`: largest accepted requested key size in bits. -/
  kbMax : Nat
  /-- `KB_DEF`: key size substituted for an out-of-range request. -/
  kbDef : Nat
  /-- `CERT_DEF`: default certainty of probable-prime generation. -/
  certDef : Nat
  deriving DecidableEq, Repr

/-- `W_N = ceil(KB_MAX / 32)`: words in an n-wide buffer (R8). -/
def Build.wN (c : Build) : Nat := (c.kbMax + 31) / 32

/-- `W_N2 = 2 * W_N`: words in an n²-wide buffer (R8). -/
def Build.wN2 (c : Build) : Nat := 2 * c.wN

/-- The builds there are (R401). That `CERT_DEF` fits the register it resets (R10, R117) is an inference: log entry 7,
DEDUCED. -/
abbrev Build.Legal (c : Build) : Prop :=
  4 ≤ c.kbMin ∧ c.kbMin ≤ c.kbMax ∧ c.kbMin ≤ c.kbDef ∧ c.kbDef ≤ c.kbMax ∧ c.kbMax ≤ 4096 ∧ c.certDef < 2 ^ 32

/-- The build with the values R8 gives. -/
def Build.default : Build :=
  { kbMin := Config.kbMin, kbMax := Config.kbMax, kbDef := Config.kbDef, certDef := Config.certDef }

end Sys2Proof
end

