-- ==== Sys2Proof/Syntax.lean ====
section
/-! DEFINITION. The commands of PKGD: the "instructions" a host writes to CMD (R2), one constructor per row of the
opcode table (R302). -/

namespace Sys2Proof

/-- The eight commands (R302). None has an immediate or a register field (R301). -/
inductive Instr where
  /-- NOP, word 0x00000000 (R610). -/
  | nop
  /-- KEYGEN, word 0x00000001 (R400). -/
  | keygen
  /-- DEC, word 0x00000002 (R502). -/
  | dec
  /-- DECX, word 0x00000003 (R503). -/
  | decx
  /-- LOADPRIV, word 0x00000004 (R500). -/
  | loadpriv
  /-- ABORT, word 0x00000005 (R612). -/
  | abort
  /-- CLRSTAT, word 0x00000006 (R611). -/
  | clrstat
  /-- ZEROIZE, word 0x00000007 (R613). -/
  | zeroize
  deriving DecidableEq, Repr

end Sys2Proof
end

