-- ==== Sys2Proof/WellFormed.lean ====
section
/-! DEFINITION. What a well-formed command and a well-formed command word are (R300 to R303), written without the
decoder, so that the decoder can be held against it. -/

namespace Sys2Proof

/-- Every command is well formed: no command has an operand to check (R301). -/
def Instr.wellFormed : Instr → Bool
  | .nop => true
  | .keygen => true
  | .dec => true
  | .decx => true
  | .loadpriv => true
  | .abort => true
  | .clrstat => true
  | .zeroize => true

/-- The RSV field, bits 31 to 8, is 0 (R300). -/
def rsvIsZero (w : Word) : Bool := w.toNat / 256 == 0

/-- The OPC field, bits 7 to 0, is one of the eight opcodes of R302. -/
def opcIsDefined (w : Word) : Bool := w.toNat % 256 < 8

/-- A word of the opcode table: both checks hold (R302, R303). -/
def wordWellFormed (w : Word) : Bool := rsvIsZero w && opcIsDefined w

end Sys2Proof
end

