-- ==== Sys2Proof/Decode.lean ====
section
/-! DEFINITION. The decoder of command words, total on every 32-bit word and rejecting by name (R300 to R304), and
the encoder. -/

namespace Sys2Proof

/-- Why a word is no command. Both cases are the illegal encodings of R303; the block reports the same error for
both. -/
inductive DecodeError where
  /-- RSV is not 0 (R303). -/
  | reservedBits
  /-- RSV is 0 and OPC is 0x08 to 0xFF (R303). -/
  | reservedOpcode
  deriving DecidableEq, Repr

/-- The OPC field, bits 7:0 (R300). -/
def cmdOpc (w : Word) : BitVec 8 := w.extractLsb' 0 8

/-- The RSV field, bits 31:8 (R300). -/
def cmdRsv (w : Word) : BitVec 24 := w.extractLsb' 8 24

/-- The command an opcode names, for a word whose RSV is 0 (R302). -/
def decodeOpc (opc : BitVec 8) : Except DecodeError Instr :=
  match opc.toNat with
  | 0 => .ok .nop
  | 1 => .ok .keygen
  | 2 => .ok .dec
  | 3 => .ok .decx
  | 4 => .ok .loadpriv
  | 5 => .ok .abort
  | 6 => .ok .clrstat
  | 7 => .ok .zeroize
  | _ => .error .reservedOpcode

/-- The decoder (R302, R303): the meaning of a word depends on its 32 bits only (R304). -/
def decode (w : Word) : Except DecodeError Instr :=
  if cmdRsv w = 0 then decodeOpc (cmdOpc w) else .error .reservedBits

/-- The command word of each command, from the table of R302. -/
def encode : Instr → Word
  | .nop => 0x00000000#32
  | .keygen => 0x00000001#32
  | .dec => 0x00000002#32
  | .decx => 0x00000003#32
  | .loadpriv => 0x00000004#32
  | .abort => 0x00000005#32
  | .clrstat => 0x00000006#32
  | .zeroize => 0x00000007#32

/-- What the decoder reads from an opcode-table row's bits. Every row has one 32-bit word, delivered whole
(R300), so the table's bit numbers are the word's. A word wider than 32 bits is none. -/
def decodeTableWord (nbits w : Nat) : Option Instr :=
  if w % 2 ^ nbits < 2 ^ 32 then
    match decode (BitVec.ofNat 32 (w % 2 ^ nbits)) with
    | .ok i => some i
    | .error _ => none
  else none

end Sys2Proof
end

