-- ==== Sys2Proof/Machine/State.lean ====
section
/-! DEFINITION. The state of PKGD as plain data: everything R100 lists, the build's parameters (R8), the model's
own fields for what is outside the block (pending events, the last bus response, a counter for free values), the
reasons a step can stop, and the state after reset (R150). -/

namespace Sys2Proof.Machine

/-- The FSM states of R130. Codes 0x0D to 0x0F and 0x13 to 0x1F are never taken, so they have no constructor. -/
inductive FsmState where
  | idle | kgClamp | kgPgen | kgQgen | kgN | kgLgcd | kgGdraw | kgGcop | kgGexp | kgGl | kgGlgcd | kgU | kgDone
  | decExp | decL | decMul
  deriving DecidableEq, Repr

/-- Which agent has a step in an FSM state (R131). -/
inductive StateKind where
  /-- IDLE: neither the FSM nor the service has a step. -/
  | resting
  /-- The FSM has the one enabled step. -/
  | internal
  /-- The Arithmetic Service or RAND has the one enabled step. -/
  | service
  deriving DecidableEq, Repr

/-- The error codes 0 to 8 of R700. Codes 9 to 15 are never produced, so they have no constructor. -/
inductive ErrCode where
  | none | illegalCmd | invalidKey | decNonexact | xRange | keyRange | kgNonexact | extContract | aborted
  deriving DecidableEq, Repr

/-- The outstanding-request record of R140: the operation and its arguments as they were on entry. -/
inductive Request where
  | primegen (k cert : Nat)
  | gcd (a b : Nat)
  | modexp (b e m : Nat)
  | modinv (a m : Nat)
  | rand (k : Nat)
  deriving DecidableEq, Repr

/-- One host bus access at a byte offset of the window. A legal access has size 4 and an aligned offset (R202). -/
inductive Access where
  | read (off size : Nat)
  | write (off size : Nat) (v : Word)
  deriving DecidableEq, Repr

/-- What the host sees of its last access (R202, R205). -/
inductive BusResp where
  /-- No access since reset. -/
  | none
  /-- A read was answered with this word. -/
  | readData (w : Word)
  /-- A write was taken by the block (performed, ignored or dropped). -/
  | writeDone
  /-- Bus error, with the data word returned beside it (0 by R202). -/
  | error (w : Word)
  deriving DecidableEq, Repr

/-- One step of one agent (R16), or the reset input (R800): what the outside world decides. -/
inductive Event where
  /-- The host performs a bus access. -/
  | host (a : Access)
  /-- The FSM agent takes its turn. -/
  | fsm
  /-- The service or RAND answers the outstanding request. The number is the draw for PRIMEGEN and RAND. The exact
  functions ignore it (R140). -/
  | respond (draw : Nat)
  /-- The service answers a request that was cancelled before (R143, R801). -/
  | lateRespond (draw : Nat)
  /-- The reset input is asserted and released (R800). -/
  | reset
  deriving DecidableEq, Repr

/-- The stored fields of STATUS (R105). BUSY and STATE are views of the FSM state (R106, R115). -/
structure Status where
  done : Bool
  err : Bool
  ovr : Bool
  keyPub : Bool
  keyPriv : Bool
  resultValid : Bool
  clamped : Bool
  movf : Bool
  errCode : ErrCode
  deriving DecidableEq, Repr

/-- The control registers that hold state of their own (R116 to R125). Of IRQ_EN and IRQ_STAT only bits 1:0
exist (R122, R123). -/
structure Regs where
  keybits : Word
  certainty : Word
  keybitsEff : Word
  nbits : Word
  ptbs : Word
  ctbs : Word
  irqEn : BitVec 2
  irqStat : BitVec 2
  pdrawCnt : Word
  gdrawCnt : Word
  deriving DecidableEq, Repr

/-- The host-visible big-integer buffers, each one natural number (R10, R126). -/
structure Bufs where
  n : Nat
  n2 : Nat
  g : Nat
  lambda : Nat
  u : Nat
  c : Nat
  x : Nat
  m : Nat
  deriving DecidableEq, Repr

/-- The internal buffers (R128) and latches (R129), which have no address. -/
structure Hidden where
  p : Nat
  q : Nat
  t : Nat
  lv : Nat
  khalf : Word
  cert : Word
  deriving DecidableEq, Repr

/-- The machine. The first six fields are the state R100 gives the block, `build` is what it was built with (log
entry 7), and the last three are the model's own (log entries 1, 3 and 4: DESIGN CHOICE). -/
structure State where
  status : Status
  regs : Regs
  buf : Bufs
  hid : Hidden
  fsm : FsmState
  req : Option Request
  /-- The parameters of R8. No step changes them. -/
  build : Build
  /-- The model's own: the steps the outside world takes next, in order. -/
  inputs : List Event
  /-- The model's own: the block's answer to the last host access. -/
  bus : BusResp
  /-- The model's own: how many free values have been used. -/
  freeCtr : Nat
  deriving DecidableEq, Repr

/-- Why a step stops. -/
inductive Fault where
  /-- Raised by a host access at an offset outside the window, which is no address of this block (R200).
  DESIGN CHOICE, safe (log entry 5). -/
  | outsideWindow
  /-- Raised by an FSM or service step that would apply an arithmetic function outside the domain R12 to R14 give
  it. No state a run from reset reaches does. DESIGN CHOICE, safe (log entry 6). -/
  | outsideDomain
  deriving DecidableEq, Repr

/-- Why an instruction has no meaning. -/
inductive Refusal where
  /-- Raised by an arm of `exec` whose command has no meaning yet. No arm is left so. Safe. -/
  | notModelled (mnemonic : String)
  deriving DecidableEq, Repr

/-- What a step or a meaning answers. -/
abbrev Result := Host.Outcome State Fault Refusal

/-- STATUS after reset: every field 0 (R150). -/
def Status.reset : Status :=
  { done := false, err := false, ovr := false, keyPub := false, keyPriv := false, resultValid := false,
    clamped := false, movf := false, errCode := .none }

/-- The control registers after reset (R150): KEYBITS holds KB_DEF and CERTAINTY holds CERT_DEF. -/
def Regs.reset (c : Build) : Regs :=
  { keybits := BitVec.ofNat 32 c.kbDef, certainty := BitVec.ofNat 32 c.certDef, keybitsEff := 0,
    nbits := 0, ptbs := 0, ctbs := 0, irqEn := 0, irqStat := 0, pdrawCnt := 0, gdrawCnt := 0 }

/-- Every host-visible buffer holds 0 after reset (R126, R150). -/
def Bufs.zero : Bufs := { n := 0, n2 := 0, g := 0, lambda := 0, u := 0, c := 0, x := 0, m := 0 }

/-- Every internal buffer and latch holds 0 after reset (R128, R129, R150). -/
def Hidden.zero : Hidden := { p := 0, q := 0, t := 0, lv := 0, khalf := 0, cert := 0 }

/-- A block of build `c` right after reset (R150, R803), with nothing queued by the outside world. -/
def State.resetOf (c : Build) : State :=
  { status := .reset, regs := .reset c, buf := .zero, hid := .zero, fsm := .idle, req := none, build := c,
    inputs := [], bus := .none, freeCtr := 0 }

/-- The machine right after reset: the block with the default parameters. -/
def State.reset : State := .resetOf .default

end Sys2Proof.Machine
end

