-- ==== Sys2Proof/Machine/Arith.lean ====
section
/-! DEFINITION. The arithmetic of PKGD on natural numbers: bit length (R11), the exact primitives GCD, MODEXP,
MODINV and lcm (R14), the L function (R13), the block sizes (R120, R121), and the answer of the Arithmetic Service
(R140). Nothing wraps around (R10). -/

namespace Sys2Proof.Machine

/-- The number of bits of the shortest binary form, 0 for 0 (R11). -/
def bitLength (v : Nat) : Nat := if v = 0 then 0 else Nat.log2 v + 1

/-- One pass of square-and-multiply modulo `m` over the bits of `e`, lowest first. -/
def modexpLoop (m : Nat) : Nat → Nat → Nat → Nat → Nat
  | 0, _, _, acc => acc
  | fuel + 1, b, e, acc => modexpLoop m fuel (b * b % m) (e / 2) (if e % 2 = 1 then acc * b % m else acc)

/-- MODEXP(b, e, m) for `m >= 1`: `(b^e) mod m`, with `b^0 = 1` for every `b` (R14). -/
def modexp (b e m : Nat) : Nat := modexpLoop m (bitLength e) (b % m) e (1 % m)

/-- One pass of Euclid's algorithm on `(r0, r1)` that carries, modulo `m`, the factors `t0`, `t1` with
`a * t ≡ r`. -/
def modinvLoop (m : Nat) : Nat → Nat → Nat → Nat → Nat → Nat
  | 0, _, _, t0, _ => t0
  | fuel + 1, r0, r1, t0, t1 =>
    if r1 = 0 then t0 else modinvLoop m fuel r1 (r0 % r1) t1 ((t0 + (m - r0 / r1 * t1 % m)) % m)

/-- MODINV(a, m) for `m >= 1` and `GCD(a, m) = 1`: the `v` in `[0, m)` with `(a * v) mod m = 1 mod m` (R14). -/
def modinv (a m : Nat) : Nat := modinvLoop m (m + 1) m (a % m) 0 (1 % m)

/-- `lcm(a, b) = (a * b) div GCD(a, b)` for `a, b >= 1` (R14). -/
def lcmOf (a b : Nat) : Nat := a * b / Nat.gcd a b

/-- Whether `L(x, n)` is defined: `x >= 1` and `(x - 1) mod n = 0` (R13). -/
def lDefined (x n : Nat) : Bool := x != 0 && (x - 1) % n == 0

/-- `L(x, n) = (x - 1) div n`, where it is defined (R13). -/
def lFun (x n : Nat) : Nat := (x - 1) / n

/-- `plaintextBlockSize = (NBITS - 1) div 8`, and 0 for NBITS 0 (R120). -/
def ptbsOf (nbits : Nat) : Nat := (nbits - 1) / 8

/-- `ciphertextBlockSize = ((NBITS + 7) div 8) * 2` (R121). -/
def ctbsOf (nbits : Nat) : Nat := (nbits + 7) / 8 * 2

/-- The service's answer to a request (R140): the exact function of the recorded arguments, or the draw. `none`
where R14 does not define the function. -/
def serviceAnswer (draw : Nat) : Request → Option Nat
  | .primegen _ _ => some draw
  | .rand _ => some draw
  | .gcd a b => some (Nat.gcd a b)
  | .modexp b e m => if m = 0 then none else some (modexp b e m)
  | .modinv a m => if m = 0 ∨ Nat.gcd a m ≠ 1 then none else some (modinv a m)

end Sys2Proof.Machine
end

