-- ==== Sys2Proof/Machine/Flags.lean ====
section
/-! DEFINITION. The status word and the interrupt line: the codes of the FSM states (R130) and of the errors (R700),
BUSY (R106), the layout of STATUS (R105), and `irq` (R132). -/

namespace Sys2Proof.Machine

/-- The 5-bit code of an FSM state (R130). -/
def FsmState.code : FsmState → BitVec 5
  | .idle => 0x00
  | .kgClamp => 0x01
  | .kgPgen => 0x02
  | .kgQgen => 0x03
  | .kgN => 0x04
  | .kgLgcd => 0x05
  | .kgGdraw => 0x06
  | .kgGcop => 0x07
  | .kgGexp => 0x08
  | .kgGl => 0x09
  | .kgGlgcd => 0x0A
  | .kgU => 0x0B
  | .kgDone => 0x0C
  | .decExp => 0x10
  | .decL => 0x11
  | .decMul => 0x12

/-- The kind column of R130. -/
def FsmState.kind : FsmState → StateKind
  | .idle => .resting
  | .kgClamp => .internal
  | .kgPgen => .service
  | .kgQgen => .service
  | .kgN => .internal
  | .kgLgcd => .service
  | .kgGdraw => .service
  | .kgGcop => .service
  | .kgGexp => .service
  | .kgGl => .internal
  | .kgGlgcd => .service
  | .kgU => .service
  | .kgDone => .internal
  | .decExp => .service
  | .decL => .internal
  | .decMul => .internal

/-- The 4-bit error code (R700). -/
def ErrCode.code : ErrCode → BitVec 4
  | .none => 0
  | .illegalCmd => 1
  | .invalidKey => 2
  | .decNonexact => 3
  | .xRange => 4
  | .keyRange => 5
  | .kgNonexact => 6
  | .extContract => 7
  | .aborted => 8

/-- STATUS.BUSY: a command is running exactly when the FSM is not in IDLE (R106). -/
def State.busy (s : State) : Bool := s.fsm != .idle

/-- The word a read of STATUS returns, field by field from bit 31 down to bit 0 (R105). -/
def statusWord (s : State) : Word :=
  0#3 ++ s.fsm.code ++ 0#4 ++ s.status.errCode.code ++ 0#7 ++ BitVec.ofBool s.status.movf
    ++ BitVec.ofBool s.status.clamped ++ BitVec.ofBool s.status.resultValid ++ BitVec.ofBool s.status.keyPriv
    ++ BitVec.ofBool s.status.keyPub ++ BitVec.ofBool s.status.ovr ++ BitVec.ofBool s.status.err
    ++ BitVec.ofBool s.status.done ++ BitVec.ofBool s.busy

/-- The interrupt output `irq`, a level and not state (R132). -/
def irqLine (s : State) : Bool :=
  (s.regs.irqStat.getLsbD 0 && s.regs.irqEn.getLsbD 0) || (s.regs.irqStat.getLsbD 1 && s.regs.irqEn.getLsbD 1)

/-- STATUS.MOVF for a result `m`: it does not fit in PTBS bytes (R114, R521). -/
def movfOf (m : Nat) (ptbs : Word) : Bool := decide (2 ^ (8 * ptbs.toNat) ≤ m)

end Sys2Proof.Machine
end

