-- ==== Sys2Proof/Machine/Operands.lean ====
section
/-! DEFINITION. The window's operands: its address map (R201), the words of a big-integer buffer (R203), reading and
writing a buffer by name (R126), and what a read of a control register returns (R101 to R125). -/

namespace Sys2Proof.Machine

/-- The host-visible buffers (R126). -/
inductive Buf where
  | n | n2 | g | lambda | u | c | x | m
  deriving DecidableEq, Repr

/-- The control registers, in the order of their offsets (R100). -/
inductive Reg where
  | id | version | params | cmd | status | keybits | certainty | keybitsEff | nbits | ptbs | ctbs | irqEn | irqStat
  | pdrawCnt | gdrawCnt
  deriving DecidableEq, Repr

/-- What stands at an offset of the window (R201). -/
inductive Region where
  | reg (r : Reg)
  | buf (b : Buf) (i : Nat)
  | reserved
  deriving DecidableEq, Repr

/-- The width of a buffer in words (R126), in a block of build `c`. -/
def Buf.words (c : Build) : Buf → Nat
  | .n => c.wN
  | .n2 => c.wN2
  | .g => c.wN2
  | .lambda => c.wN
  | .u => c.wN
  | .c => c.wN2
  | .x => c.wN2
  | .m => c.wN

/-- Whether the host may write a buffer (R126): all but N2 and M. -/
def Buf.hostWritable : Buf → Bool
  | .n => true
  | .n2 => false
  | .g => true
  | .lambda => true
  | .u => true
  | .c => true
  | .x => true
  | .m => false

/-- The number of a buffer's slot: slot base = number * SLOT (R126, R201). -/
def Buf.slotIndex : Buf → Nat
  | .n => 1
  | .n2 => 2
  | .g => 3
  | .lambda => 4
  | .u => 5
  | .c => 6
  | .x => 7
  | .m => 8

/-- The buffer whose slot has a given number (R201). -/
def slotBuf : Nat → Option Buf
  | 1 => some .n
  | 2 => some .n2
  | 3 => some .g
  | 4 => some .lambda
  | 5 => some .u
  | 6 => some .c
  | 7 => some .x
  | 8 => some .m
  | _ => none

/-- The control register at word number `k` of the window (R100). -/
def regAt : Nat → Option Reg
  | 0 => some .id
  | 1 => some .version
  | 2 => some .params
  | 3 => some .cmd
  | 4 => some .status
  | 5 => some .keybits
  | 6 => some .certainty
  | 7 => some .keybitsEff
  | 8 => some .nbits
  | 9 => some .ptbs
  | 10 => some .ctbs
  | 11 => some .irqEn
  | 12 => some .irqStat
  | 13 => some .pdrawCnt
  | 14 => some .gdrawCnt
  | _ => none

/-- The offset of a control register (R100). -/
def Reg.offset : Reg → Nat
  | .id => 0x000
  | .version => 0x004
  | .params => 0x008
  | .cmd => 0x00C
  | .status => 0x010
  | .keybits => 0x014
  | .certainty => 0x018
  | .keybitsEff => 0x01C
  | .nbits => 0x020
  | .ptbs => 0x024
  | .ctbs => 0x028
  | .irqEn => 0x02C
  | .irqStat => 0x030
  | .pdrawCnt => 0x034
  | .gdrawCnt => 0x038

/-- The offset of word `i` of a buffer: `slot(B) + 4*i` (R201). -/
def Buf.offset (b : Buf) (i : Nat) : Nat := b.slotIndex * Config.slot + 4 * i

/-- The address map of R201, at an aligned offset. -/
def regionOf (c : Build) (off : Nat) : Region :=
  match slotBuf (off / Config.slot) with
  | some b => if off % Config.slot / 4 < b.words c then .buf b (off % Config.slot / 4) else .reserved
  | none =>
    match regAt (off / 4) with
    | some r => .reg r
    | none => .reserved

/-- The host address of an offset of the window: `BASE + off` (R320). -/
def hostAddress (off : Nat) : Nat := Config.base + off

/-- How many bits stand below word `i` of a buffer of `w` words (R203). -/
def wordShift (w i : Nat) : Nat := 32 * (w - 1 - i)

/-- Word `i` of the `w`-word number `v`: bits `32*(w-i)-1` down to `32*(w-1-i)` (R203). -/
def wordOf (w v i : Nat) : Word := BitVec.ofNat 32 (v / 2 ^ wordShift w i)

/-- `v` with word `i` of its `w` words replaced (R203, R207). -/
def setWord (w v i : Nat) (d : Word) : Nat :=
  (v / 2 ^ (wordShift w i + 32) * 2 ^ 32 + d.toNat) * 2 ^ wordShift w i + v % 2 ^ wordShift w i

/-- The number a buffer holds. -/
def Bufs.get (bs : Bufs) : Buf → Nat
  | .n => bs.n
  | .n2 => bs.n2
  | .g => bs.g
  | .lambda => bs.lambda
  | .u => bs.u
  | .c => bs.c
  | .x => bs.x
  | .m => bs.m

/-- The buffers with one of them replaced whole (R15: `B.NAME <- v`). -/
def Bufs.set (bs : Bufs) (b : Buf) (v : Nat) : Bufs :=
  match b with
  | .n => { bs with n := v }
  | .n2 => { bs with n2 := v }
  | .g => { bs with g := v }
  | .lambda => { bs with lambda := v }
  | .u => { bs with u := v }
  | .c => { bs with c := v }
  | .x => { bs with x := v }
  | .m => { bs with m := v }

/-- The word at word `i` of a buffer's current value (R205). -/
def bufWord (s : State) (b : Buf) (i : Nat) : Word := wordOf (b.words s.build) (s.buf.get b) i

/-- PARAMS: bits 15:0 = KB_MAX, bits 23:16 = W_N, bits 31:24 = 0 (R103). -/
def paramsWord (c : Build) : Word := 0#8 ++ BitVec.ofNat 8 c.wN ++ BitVec.ofNat 16 c.kbMax

/-- What a read of a control register returns (R101 to R125). CMD reads 0 (R104). -/
def regWord (s : State) : Reg → Word
  | .id => 0x504B4744#32
  | .version => 0x00000001#32
  | .params => paramsWord s.build
  | .cmd => 0#32
  | .status => statusWord s
  | .keybits => s.regs.keybits
  | .certainty => s.regs.certainty
  | .keybitsEff => s.regs.keybitsEff
  | .nbits => s.regs.nbits
  | .ptbs => s.regs.ptbs
  | .ctbs => s.regs.ctbs
  | .irqEn => s.regs.irqEn.zeroExtend 32
  | .irqStat => s.regs.irqStat.zeroExtend 32
  | .pdrawCnt => s.regs.pdrawCnt
  | .gdrawCnt => s.regs.gdrawCnt

/-- An access the block performs: one aligned 32-bit word (R202). -/
def accessLegal (off size : Nat) : Bool := size == 4 && off % 4 == 0

end Sys2Proof.Machine
end

