-- ==== Sys2Proof/Machine/Ops.lean ====
section
/-! DEFINITION. The shared operations of PKGD: entering an FSM state with its request (R130, R140, R143), error and
success completion (R710, R711: taking an exception, and its counterpart), the start of a command that runs (R105),
dropping a write (R109, R210), the draw counters (R124, R125), the key side effects of a buffer write (R127), and
reset (R800 to R802). -/

namespace Sys2Proof.Machine

/-- The request a service state issues on entry, with its arguments as they are then (R140 and the rule of each
state). No other state has one. -/
def requestFor (f : FsmState) (s : State) : Option Request :=
  match f with
  | .idle => none
  | .kgClamp => none
  | .kgPgen => some (.primegen s.hid.khalf.toNat s.hid.cert.toNat)
  | .kgQgen => some (.primegen s.hid.khalf.toNat s.hid.cert.toNat)
  | .kgN => none
  | .kgLgcd => some (.gcd (s.hid.p - 1) (s.hid.q - 1))
  | .kgGdraw => some (.rand (bitLength s.buf.n2))
  | .kgGcop => some (.gcd s.buf.g s.buf.n2)
  | .kgGexp => some (.modexp s.buf.g s.buf.lambda s.buf.n2)
  | .kgGl => none
  | .kgGlgcd => some (.gcd s.hid.lv s.buf.n)
  | .kgU => some (.modinv s.hid.lv s.buf.n)
  | .kgDone => none
  | .decExp => some (.modexp s.buf.c s.buf.lambda s.buf.n2)
  | .decL => none
  | .decMul => none

/-- `state <- f`, issuing the request of `f`, or leaving none outstanding (R130, R140, R143). -/
def enter (f : FsmState) (s : State) : State := { s with fsm := f, req := requestFor f s }

/-- Error completion, `raise Error(code)` (R710). It records the code only (R701), and leaves every other field of
STATUS as it is. -/
def raiseError (code : ErrCode) (s : State) : State :=
  enter .idle
    { s with
      status := { s.status with err := true, done := false, errCode := code }
      regs := { s.regs with irqStat := s.regs.irqStat ||| 0b10#2 } }

/-- Success completion, `complete()` (R711). -/
def complete (s : State) : State :=
  enter .idle
    { s with
      status := { s.status with done := true, err := false, errCode := .none }
      regs := { s.regs with irqStat := s.regs.irqStat ||| 0b01#2 } }

/-- DONE, ERR and ERRCODE cleared: the start of any command that runs (R105, R107, R108, R110). -/
def startRun (s : State) : State :=
  { s with status := { s.status with done := false, err := false, errCode := .none } }

/-- CLRSTAT's effect, the block's return from an exception (R611, R730). -/
def clearStatus (s : State) : State :=
  { s with status := { s.status with done := false, err := false, ovr := false, errCode := .none } }

/-- A write dropped because BUSY is 1: OVR is set and nothing else changes (R109, R210). -/
def dropWrite (s : State) : State := { s with status := { s.status with ovr := true } }

/-- The BUSY check of R310: every command but ABORT is dropped while a command runs. -/
def ifIdle (s : State) (k : State → Result) : Result := if s.busy then .next (dropWrite s) else k s

/-- Goes on only where the arithmetic of a rule is defined (R12 to R14). -/
def whenDefined (p : Bool) (r : Result) : Result := if p then r else .fault .outsideDomain

/-- A draw counter after one more response: `min(c + 1, 0xFFFFFFFF)` (R124, R125). -/
def saturatingInc (c : Word) : Word := if c = BitVec.allOnes 32 then c else c + 1

/-- One more PRIMEGEN response consumed (R124). -/
def countPDraw (s : State) : State := { s with regs := { s.regs with pdrawCnt := saturatingInc s.regs.pdrawCnt } }

/-- One more RAND response consumed (R125). -/
def countGDraw (s : State) : State := { s with regs := { s.regs with gdrawCnt := saturatingInc s.regs.gdrawCnt } }

/-- NBITS, PTBS and CTBS of the modulus now in N, written together (R119 to R121). -/
def setBlockSizes (s : State) : State :=
  { s with regs :=
    { s.regs with
      nbits := BitVec.ofNat 32 (bitLength s.buf.n)
      ptbs := BitVec.ofNat 32 (ptbsOf (bitLength s.buf.n))
      ctbs := BitVec.ofNat 32 (ctbsOf (bitLength s.buf.n)) } }

/-- NBITS, PTBS and CTBS set to 0 together (R119 to R121). -/
def clearBlockSizes (s : State) : State := { s with regs := { s.regs with nbits := 0, ptbs := 0, ctbs := 0 } }

/-- What a host write to a buffer does to the committed key (R127). -/
def keySideEffects (b : Buf) (s : State) : State :=
  match b with
  | .n =>
    clearBlockSizes { s with status := { s.status with keyPub := false, keyPriv := false, resultValid := false } }
  | .g => { s with status := { s.status with keyPub := false } }
  | .lambda => { s with status := { s.status with keyPriv := false, resultValid := false } }
  | .u => { s with status := { s.status with keyPriv := false, resultValid := false } }
  | .c => s
  | .x => s
  | .n2 => s
  | .m => s

/-- The reset transition from any state (R800 to R802): the block holds its reset values. The events still to come
and the count of used free values are outside the block and stay. -/
def resetBlock (s : State) : State := { State.resetOf s.build with inputs := s.inputs, freeCtr := s.freeCtr }

end Sys2Proof.Machine
end

