-- ==== Sys2Proof/Machine/Control.lean ====
section
/-! DEFINITION. The control commands (42_control.md): NOP, CLRSTAT, ABORT, ZEROIZE, one definition each. -/

namespace Sys2Proof.Machine

/-- NOP (R610): no effect. -/
def execNop (s : State) : Result := ifIdle s fun s => .next s

/-- CLRSTAT (R611). -/
def execClrstat (s : State) : Result := ifIdle s fun s => .next (clearStatus s)

/-- ABORT (R612), accepted in every state. Entering IDLE leaves no request outstanding (R143). -/
def execAbort (s : State) : Result :=
  if s.busy then .next (raiseError .aborted s) else .next s

/-- The erasure of ZEROIZE (R613): KEYBITS, CERTAINTY, IRQ_EN, IRQ_STAT and OVR are kept. -/
def eraseAll (s : State) : State :=
  { s with
    status := { Status.reset with ovr := s.status.ovr }
    buf := .zero
    hid := .zero
    regs :=
      { s.regs with keybitsEff := 0, nbits := 0, ptbs := 0, ctbs := 0, pdrawCnt := 0, gdrawCnt := 0 } }

/-- ZEROIZE (R613). -/
def execZeroize (s : State) : Result := ifIdle s fun s => .next (complete (eraseAll s))

end Sys2Proof.Machine
end

