-- ==== Sys2Proof/Machine/Decrypt.lean ====
section
/-! DEFINITION. The decryption formula evaluator (41_decrypt.md): LOADPRIV, DEC, DECX and the states DEC_EXP, DEC_L,
DEC_MUL, one definition each. -/

namespace Sys2Proof.Machine

/-- LOADPRIV (R500): acceptance check and commitment in one host step. -/
def execLoadpriv (s : State) : Result :=
  ifIdle s fun s =>
    if s.buf.n < 2 ∨ s.build.kbMax < bitLength s.buf.n then .next (raiseError .keyRange s)
    else
      let s := startRun s
      let s := setBlockSizes { s with buf := { s.buf with n2 := s.buf.n * s.buf.n } }
      .next (complete { s with status := { s.status with keyPriv := true, resultValid := false } })

/-- What DEC and DECX do once their acceptance checks have passed (R502, R503). -/
def startDecrypt (f : FsmState) (s : State) : State :=
  let s := startRun s
  enter f { s with status := { s.status with resultValid := false, movf := false } }

/-- DEC acceptance (R502), with the role check of R501. -/
def execDec (s : State) : Result :=
  ifIdle s fun s =>
    if s.status.keyPriv = false then .next (raiseError .invalidKey s)
    else .next (startDecrypt .decExp s)

/-- DECX acceptance (R503): INVALID_KEY before X_RANGE (R720). -/
def execDecx (s : State) : Result :=
  ifIdle s fun s =>
    if s.status.keyPriv = false then .next (raiseError .invalidKey s)
    else if s.buf.n2 ≤ s.buf.x then .next (raiseError .xRange s)
    else .next (startDecrypt .decL s)

/-- DEC_EXP response (R510). -/
def decExpResp (v : Nat) (s : State) : Result :=
  .next (enter .decL { s with buf := { s.buf with x := v } })

/-- DEC_L (R520): a non-exact `L` is DEC_NONEXACT, and LV is not written then. -/
def decLStep (s : State) : Result :=
  whenDefined (1 ≤ s.buf.n)
    (if lDefined s.buf.x s.buf.n then
      .next (enter .decMul { s with hid := { s.hid with lv := lFun s.buf.x s.buf.n } })
    else .next (raiseError .decNonexact s))

/-- DEC_MUL (R521). -/
def decMulStep (s : State) : Result :=
  whenDefined (1 ≤ s.buf.n)
    (.next (complete
      { s with
        buf := { s.buf with m := s.hid.lv * s.buf.u % s.buf.n }
        status :=
          { s.status with
            movf := movfOf (s.hid.lv * s.buf.u % s.buf.n) s.regs.ptbs
            resultValid := true } }))

end Sys2Proof.Machine
end

