-- ==== Sys2Proof/Machine/Keygen.lean ====
section
/-! DEFINITION. Key generation (40_keygen.md): the KEYGEN command and its twelve FSM states, one definition each. A
service state's definition is its response step and takes the service's answer `v`. -/

namespace Sys2Proof.Machine

/-- KEYGEN acceptance (R400). -/
def execKeygen (s : State) : Result :=
  ifIdle s fun s =>
    .next (enter .kgClamp (clearBlockSizes
      { s with status :=
        { s.status with
          done := false, err := false, errCode := .none, keyPub := false, keyPriv := false, resultValid := false,
          clamped := false, movf := false } }))

/-- Whether a requested key size is in `[KB_MIN, KB_MAX]` (R410). -/
def keySizeInRange (c : Build) (kb : Word) : Bool := c.kbMin ≤ kb.toNat && kb.toNat ≤ c.kbMax

/-- The effective key size of a request: itself in range, KB_DEF otherwise (R410). -/
def effectiveKeySize (c : Build) (kb : Word) : Word :=
  if keySizeInRange c kb then kb else BitVec.ofNat 32 c.kbDef

/-- KG_CLAMP (R410). -/
def kgClampStep (s : State) : Result :=
  .next (enter .kgPgen
    { s with
      status := { s.status with clamped := !keySizeInRange s.build s.regs.keybits }
      regs := { s.regs with keybitsEff := effectiveKeySize s.build s.regs.keybits, pdrawCnt := 0, gdrawCnt := 0 }
      hid := { s.hid with khalf := effectiveKeySize s.build s.regs.keybits / 2, cert := s.regs.certainty } })

/-- KG_PGEN response (R411). The contract of PRIMEGEN is checked before anything is written (R142). -/
def kgPgenResp (v : Nat) (s : State) : Result :=
  let s := countPDraw s
  if bitLength v ≠ s.hid.khalf.toNat then .next (raiseError .extContract s)
  else .next (enter .kgQgen { s with hid := { s.hid with p := v } })

/-- KG_QGEN response (R412): `q = p` is drawn again. -/
def kgQgenResp (v : Nat) (s : State) : Result :=
  let s := countPDraw s
  if bitLength v ≠ s.hid.khalf.toNat then .next (raiseError .extContract s)
  else .next (enter (if v = s.hid.p then .kgQgen else .kgN) { s with hid := { s.hid with q := v } })

/-- KG_N (R413). -/
def kgNStep (s : State) : Result :=
  .next (enter .kgLgcd
    { s with buf := { s.buf with n := s.hid.p * s.hid.q, n2 := (s.hid.p * s.hid.q) * (s.hid.p * s.hid.q) } })

/-- KG_LGCD response (R414). -/
def kgLgcdResp (v : Nat) (s : State) : Result :=
  whenDefined (1 ≤ s.hid.p && 1 ≤ s.hid.q && 1 ≤ v)
    (.next (enter .kgGdraw
      { s with
        hid := { s.hid with t := v }
        buf := { s.buf with lambda := (s.hid.p - 1) * (s.hid.q - 1) / v } }))

/-- KG_GDRAW response (R415). The contract of RAND is checked before the draw is screened (R141, R720). -/
def kgGdrawResp (v : Nat) (s : State) : Result :=
  let s := countGDraw s
  if 2 ^ bitLength s.buf.n2 ≤ v then .next (raiseError .extContract s)
  else .next (enter (if s.buf.n2 ≤ v then .kgGdraw else .kgGcop) { s with buf := { s.buf with g := v } })

/-- KG_GCOP response (R417): a `g` not coprime to `n²` is drawn again. -/
def kgGcopResp (v : Nat) (s : State) : Result :=
  .next (enter (if v ≠ 1 then .kgGdraw else .kgGexp) { s with hid := { s.hid with t := v } })

/-- KG_GEXP response (R418). -/
def kgGexpResp (v : Nat) (s : State) : Result :=
  .next (enter .kgGl { s with buf := { s.buf with x := v } })

/-- KG_GL (R416): a non-exact `L` is KG_NONEXACT, and LV is not written then. -/
def kgGlStep (s : State) : Result :=
  whenDefined (1 ≤ s.buf.n)
    (if lDefined s.buf.x s.buf.n then
      .next (enter .kgGlgcd { s with hid := { s.hid with lv := lFun s.buf.x s.buf.n } })
    else .next (raiseError .kgNonexact s))

/-- KG_GLGCD response (R419): an `L` not coprime to `n` draws `g` again. -/
def kgGlgcdResp (v : Nat) (s : State) : Result :=
  .next (enter (if v ≠ 1 then .kgGdraw else .kgU) { s with hid := { s.hid with t := v } })

/-- KG_U response (R420). -/
def kgUResp (v : Nat) (s : State) : Result :=
  .next (enter .kgDone { s with buf := { s.buf with u := v } })

/-- KG_DONE (R421). -/
def kgDoneStep (s : State) : Result :=
  let s := setBlockSizes s
  .next (complete { s with status := { s.status with keyPub := true, keyPriv := true } })

end Sys2Proof.Machine
end

