-- ==== Sys2Proof/Machine/Dispatch.lean ====
section
/-! DEFINITION. The dispatch of a command to its meaning (R310), one arm per command. -/

namespace Sys2Proof.Machine

/-- What a command does when the host writes it to CMD (R310). -/
def exec (i : Instr) (s : State) : Host.Outcome State Fault Refusal :=
  match i with
  | .nop => Sys2Proof.Machine.execNop s
  | .keygen => Sys2Proof.Machine.execKeygen s
  | .dec => Sys2Proof.Machine.execDec s
  | .decx => Sys2Proof.Machine.execDecx s
  | .loadpriv => Sys2Proof.Machine.execLoadpriv s
  | .abort => Sys2Proof.Machine.execAbort s
  | .clrstat => Sys2Proof.Machine.execClrstat s
  | .zeroize => Sys2Proof.Machine.execZeroize s

end Sys2Proof.Machine
end

