-- ==== Sys2Proof/Machine/Bus.lean ====
section
/-! DEFINITION. The host's bus accesses (20_memory.md): reads (R205, R209), writes (R207), the CMD write with its
dispatch (R310), and the bus error of an access that is not one aligned word (R202). -/

namespace Sys2Proof.Machine

/-- A host read of one aligned word (R205). Only a buffer read while BUSY returns an unspecified word (R209). -/
def busRead (off : Nat) (s : State) : State :=
  match regionOf s.build off with
  | .reg r => { s with bus := .readData (regWord s r) }
  | .buf b i =>
    if s.busy then { s with bus := .readData (Config.freeReadWord s.freeCtr), freeCtr := s.freeCtr + 1 }
    else { s with bus := .readData (bufWord s b i) }
  | .reserved => { s with bus := .readData 0 }

/-- The host step that writes `v` to CMD (R310). An illegal word is ILLEGAL_CMD when IDLE, and is dropped while
BUSY (R303). ABORT's exemption from the BUSY check is in its meaning. -/
def cmdWrite (v : Word) (s : State) : Result :=
  match decode v with
  | .ok i => exec i s
  | .error _ => ifIdle s fun s => .next (raiseError .illegalCmd s)

/-- A host write to a host-writable buffer word, with its key side effects (R127, R207). -/
def bufWrite (b : Buf) (i : Nat) (v : Word) (s : State) : State :=
  keySideEffects b { s with buf := s.buf.set b (setWord (b.words s.build) (s.buf.get b) i v) }

/-- A host write of one aligned word to a control register (R207). -/
def regWrite (r : Reg) (v : Word) (s : State) : Result :=
  match r with
  | .id => .next s
  | .version => .next s
  | .params => .next s
  | .cmd => cmdWrite v s
  | .status => .next s
  | .keybits => ifIdle s fun s => .next { s with regs := { s.regs with keybits := v } }
  | .certainty => ifIdle s fun s => .next { s with regs := { s.regs with certainty := v } }
  | .keybitsEff => .next s
  | .nbits => .next s
  | .ptbs => .next s
  | .ctbs => .next s
  | .irqEn => .next { s with regs := { s.regs with irqEn := v.extractLsb' 0 2 } }
  | .irqStat => .next { s with regs := { s.regs with irqStat := s.regs.irqStat &&& ~~~ v.extractLsb' 0 2 } }
  | .pdrawCnt => .next s
  | .gdrawCnt => .next s

/-- A host write of one aligned word (R207). Read-only buffers and reserved offsets ignore it (R206, R208). -/
def busWrite (off : Nat) (v : Word) (s : State) : Result :=
  match regionOf s.build off with
  | .reg r => regWrite r v s
  | .buf b i => if b.hostWritable then ifIdle s fun s => .next (bufWrite b i v s) else .next s
  | .reserved => .next s

/-- One host access. Outside the window it is not this block's (R200; DESIGN CHOICE, safe: log entries 5 and 14). An
access that is not one aligned word gets a bus error with data 0 and changes nothing (R202). -/
def hostAccess (a : Access) (s : State) : Result :=
  match a with
  | .read off size =>
    if Config.window ≤ off then .fault .outsideWindow
    else if accessLegal off size then .next (busRead off s)
    else .next { s with bus := .error 0 }
  | .write off size v =>
    if Config.window ≤ off then .fault .outsideWindow
    else if accessLegal off size then busWrite off v { s with bus := .writeDone }
    else .next { s with bus := .error 0 }

end Sys2Proof.Machine
end

