-- ==== Sys2Proof/Machine/Agents.lean ====
section
/-! DEFINITION. The agents of R16: the FSM's internal step and the service's response step (R131, R140), what one
event of the outside world does, and what happens when no event is queued. -/

namespace Sys2Proof.Machine

/-- The FSM agent's turn: the one step of an internal state, and none in IDLE or in a service state (R131). -/
def fsmStep (s : State) : Result :=
  match s.fsm with
  | .idle => .next s
  | .kgClamp => kgClampStep s
  | .kgPgen => .next s
  | .kgQgen => .next s
  | .kgN => kgNStep s
  | .kgLgcd => .next s
  | .kgGdraw => .next s
  | .kgGcop => .next s
  | .kgGexp => .next s
  | .kgGl => kgGlStep s
  | .kgGlgcd => .next s
  | .kgU => .next s
  | .kgDone => kgDoneStep s
  | .decExp => .next s
  | .decL => decLStep s
  | .decMul => decMulStep s

/-- The response step of a service state for the service's answer `v`. In another state there is none (R131). -/
def deliver (v : Nat) (s : State) : Result :=
  match s.fsm with
  | .idle => .next s
  | .kgClamp => .next s
  | .kgPgen => kgPgenResp v s
  | .kgQgen => kgQgenResp v s
  | .kgN => .next s
  | .kgLgcd => kgLgcdResp v s
  | .kgGdraw => kgGdrawResp v s
  | .kgGcop => kgGcopResp v s
  | .kgGexp => kgGexpResp v s
  | .kgGl => .next s
  | .kgGlgcd => kgGlgcdResp v s
  | .kgU => kgUResp v s
  | .kgDone => .next s
  | .decExp => decExpResp v s
  | .decL => .next s
  | .decMul => .next s

/-- The service agent's turn: it answers the outstanding request with the exact function of the recorded arguments
or with the draw (R140). With no request outstanding the answer is discarded (R143). -/
def serviceStep (draw : Nat) (s : State) : Result :=
  match s.req with
  | none => .next s
  | some r =>
    match serviceAnswer draw r with
    | some v => deliver v s
    | none => .fault .outsideDomain

/-- One event (R16). A response to a cancelled request is discarded without effect (R143, R801). -/
def perform (e : Event) (s : State) : Result :=
  match e with
  | .host a => hostAccess a s
  | .fsm => fsmStep s
  | .respond draw => serviceStep draw s
  | .lateRespond _ => .next s
  | .reset => .next (resetBlock s)

/-- With no event queued the host is silent: the FSM takes its step in an internal state, the service answers or
stays silent as a free value says (R830, I-6), and in IDLE nothing happens (R131). -/
def unscheduled (s : State) : Result :=
  match s.fsm.kind with
  | .resting => .next s
  | .internal => fsmStep s
  | .service =>
    if Config.freeServiceTurn s.freeCtr then
      serviceStep (Config.freeDraw s.freeCtr) { s with freeCtr := s.freeCtr + 1 }
    else .next { s with freeCtr := s.freeCtr + 1 }

end Sys2Proof.Machine
end

