-- ==== Sys2Proof/Machine/Step.lean ====
section
/-! DEFINITION. One step of the machine: one atomic step of one agent (R16). -/

namespace Sys2Proof.Machine

/-- The next queued event happens, or, with none queued, the block goes on by itself. -/
def step (s : State) : Host.Outcome State Fault Refusal :=
  match s.inputs with
  | [] => unscheduled s
  | e :: rest => perform e { s with inputs := rest }

/-- The host's next access is a write of the given command word to CMD: PKGD fetches nothing, a command arrives by
a host write (R2, R216; DESIGN CHOICE, log entry 1). -/
def State.withFetchWord (s : State) (nbits w : Nat) : State :=
  { s with inputs := .host (.write Reg.cmd.offset 4 (BitVec.ofNat 32 (w % 2 ^ nbits))) :: s.inputs }

end Sys2Proof.Machine
end

