-- ==== Sys2Proof/Safety.lean ====
section
/-! DEFINITION. What a good state of PKGD is, in the terms claims use: the invariant `Inv`, made of the promises the
spec makes of the whole machine, and the frame relations claims are stated with. -/

namespace Sys2Proof.Machine

/-- Every buffer holds a number that fits its words (R10, R126, R128). -/
abbrev Widths (s : State) : Prop :=
  s.buf.n < 2 ^ (32 * s.build.wN) ∧ s.buf.n2 < 2 ^ (32 * s.build.wN2) ∧ s.buf.g < 2 ^ (32 * s.build.wN2)
    ∧ s.buf.lambda < 2 ^ (32 * s.build.wN) ∧ s.buf.u < 2 ^ (32 * s.build.wN) ∧ s.buf.c < 2 ^ (32 * s.build.wN2)
    ∧ s.buf.x < 2 ^ (32 * s.build.wN2) ∧ s.buf.m < 2 ^ (32 * s.build.wN)
    ∧ s.hid.p < 2 ^ (32 * s.build.wN) ∧ s.hid.q < 2 ^ (32 * s.build.wN) ∧ s.hid.t < 2 ^ (32 * s.build.wN2)
    ∧ s.hid.lv < 2 ^ (32 * s.build.wN)

/-- STATUS reports at most one outcome (R108), a code exactly with ERR (R110), and neither while a command runs
(R105). -/
abbrev OneOutcome (s : State) : Prop :=
  ¬(s.status.done = true ∧ s.status.err = true) ∧ (s.status.err = true ↔ s.status.errCode ≠ .none)
    ∧ (s.busy = true → s.status.done = false ∧ s.status.err = false)

/-- PTBS and CTBS are the sizes NBITS gives (R120, R121), and NBITS is at most KB_MAX (R119). -/
abbrev SizesMatch (s : State) : Prop :=
  s.regs.ptbs.toNat = ptbsOf s.regs.nbits.toNat ∧ s.regs.ctbs.toNat = ctbsOf s.regs.nbits.toNat
    ∧ s.regs.nbits.toNat ≤ s.build.kbMax

/-- N holds a modulus a key was committed with: N2 and NBITS were computed from it (R111, R119). -/
abbrev Modulus (s : State) : Prop :=
  2 ≤ s.buf.n ∧ bitLength s.buf.n ≤ s.build.kbMax ∧ s.buf.n2 = s.buf.n * s.buf.n
    ∧ s.regs.nbits.toNat = bitLength s.buf.n

/-- KEY_PUB means N and G hold a public key produced by KEYGEN (R111, R127). -/
abbrev PublicKey (s : State) : Prop :=
  Modulus s ∧ s.buf.n = s.hid.p * s.hid.q ∧ s.hid.p ≠ s.hid.q ∧ s.buf.g < s.buf.n2
    ∧ Nat.gcd s.buf.g s.buf.n2 = 1

/-- RESULT_VALID means M holds the result of the last DEC or DECX under the committed private key (R112), and MOVF
says whether it fits (R114). -/
abbrev ResultHeld (s : State) : Prop :=
  s.status.keyPriv = true ∧ s.buf.m = s.hid.lv * s.buf.u % s.buf.n ∧ s.status.movf = movfOf s.buf.m s.regs.ptbs

/-- What KEYGEN acceptance cleared stays clear while KEYGEN runs (R400). -/
abbrev KgClean (s : State) : Prop :=
  s.status.keyPub = false ∧ s.status.keyPriv = false ∧ s.status.resultValid = false ∧ s.status.movf = false
    ∧ s.regs.nbits = 0

/-- After KG_CLAMP (R410, R401). -/
abbrev KgSize (s : State) : Prop :=
  KgClean s ∧ s.regs.keybitsEff = effectiveKeySize s.build s.regs.keybits
    ∧ s.status.clamped = (!keySizeInRange s.build s.regs.keybits)
    ∧ s.hid.khalf = s.regs.keybitsEff / 2 ∧ s.hid.cert = s.regs.certainty
    ∧ 2 ≤ s.hid.khalf.toNat ∧ 2 * s.hid.khalf.toNat ≤ s.build.kbMax

/-- After KG_PGEN (R411). -/
abbrev KgP (s : State) : Prop := KgSize s ∧ bitLength s.hid.p = s.hid.khalf.toNat

/-- After KG_QGEN (R412). -/
abbrev KgPQ (s : State) : Prop := KgP s ∧ bitLength s.hid.q = s.hid.khalf.toNat ∧ s.hid.p ≠ s.hid.q

/-- After KG_N (R413). -/
abbrev KgN (s : State) : Prop := KgPQ s ∧ s.buf.n = s.hid.p * s.hid.q ∧ s.buf.n2 = s.buf.n * s.buf.n

/-- After KG_LGCD (R414). -/
abbrev KgLambda (s : State) : Prop := KgN s ∧ s.buf.lambda = lcmOf (s.hid.p - 1) (s.hid.q - 1)

/-- After KG_GDRAW (R415). -/
abbrev KgG (s : State) : Prop := KgLambda s ∧ s.buf.g < s.buf.n2

/-- After KG_GCOP (R417). -/
abbrev KgGCoprime (s : State) : Prop := KgG s ∧ Nat.gcd s.buf.g s.buf.n2 = 1

/-- After KG_GEXP (R418). -/
abbrev KgX (s : State) : Prop := KgGCoprime s ∧ s.buf.x = modexp s.buf.g s.buf.lambda s.buf.n2

/-- After KG_GL (R416). -/
abbrev KgLv (s : State) : Prop :=
  KgX s ∧ lDefined s.buf.x s.buf.n = true ∧ s.hid.lv = lFun s.buf.x s.buf.n

/-- After KG_GLGCD (R419). -/
abbrev KgLvCoprime (s : State) : Prop := KgLv s ∧ Nat.gcd s.hid.lv s.buf.n = 1

/-- After KG_U (R420): the properties R430 states of a completed KEYGEN. -/
abbrev KgU (s : State) : Prop := KgLvCoprime s ∧ s.buf.u = modinv s.hid.lv s.buf.n

/-- What DEC and DECX acceptance left holds while they run (R502, R503). -/
abbrev DecRunning (s : State) : Prop :=
  s.status.keyPriv = true ∧ s.status.resultValid = false ∧ s.status.movf = false

/-- In DEC_L, X holds a value below N2 (R503, R510). -/
abbrev DecX (s : State) : Prop := DecRunning s ∧ s.buf.x < s.buf.n2

/-- In DEC_MUL, LV holds L(X, N) (R520). -/
abbrev DecLv (s : State) : Prop :=
  DecX s ∧ lDefined s.buf.x s.buf.n = true ∧ s.hid.lv = lFun s.buf.x s.buf.n

/-- What the FSM state says of the running command's intermediate values. -/
abbrev Progress (s : State) : Prop :=
  match s.fsm with
  | .idle => True
  | .kgClamp => KgClean s
  | .kgPgen => KgSize s
  | .kgQgen => KgP s
  | .kgN => KgPQ s
  | .kgLgcd => KgN s
  | .kgGdraw => KgLambda s
  | .kgGcop => KgG s
  | .kgGexp => KgGCoprime s
  | .kgGl => KgX s
  | .kgGlgcd => KgLv s
  | .kgU => KgLvCoprime s
  | .kgDone => KgU s
  | .decExp => DecRunning s
  | .decL => DecX s
  | .decMul => DecLv s

/-- The invariant of the machine. -/
structure Inv (s : State) : Prop where
  /-- The block is one of the builds there are (R401). -/
  legal : s.build.Legal
  widths : Widths s
  outcome : OneOutcome s
  sizes : SizesMatch s
  /-- Exactly the request of the FSM state is outstanding, with its arguments as the buffers hold them (R140). -/
  request : s.req = requestFor s.fsm s
  modulus : s.regs.nbits ≠ 0 → Modulus s
  pubKey : s.status.keyPub = true → PublicKey s
  privKey : s.status.keyPriv = true → Modulus s
  result : s.status.resultValid = true → ResultHeld s
  progress : Progress s

/-- The block's own state is the same: only the model's own fields may differ. -/
abbrev SameBlock (s t : State) : Prop :=
  t.status = s.status ∧ t.regs = s.regs ∧ t.buf = s.buf ∧ t.hid = s.hid ∧ t.fsm = s.fsm ∧ t.req = s.req
    ∧ t.build = s.build

/-- The model's own fields are the same. -/
abbrev SameOutside (s t : State) : Prop := t.inputs = s.inputs ∧ t.bus = s.bus ∧ t.freeCtr = s.freeCtr

/-- Every register but IRQ_STAT is the same. -/
abbrev SameRegsButIrqStat (s t : State) : Prop := t.regs = { s.regs with irqStat := t.regs.irqStat }

/-- A key as a successful KEYGEN leaves it (R430), said of the buffers alone: X and LV may have been overwritten by a
later DEC or DECX. -/
abbrev GeneratedKey (s : State) : Prop :=
  s.buf.n = s.hid.p * s.hid.q ∧ s.hid.p ≠ s.hid.q ∧ s.buf.n2 = s.buf.n * s.buf.n
    ∧ s.buf.lambda = lcmOf (s.hid.p - 1) (s.hid.q - 1) ∧ s.buf.g < s.buf.n2 ∧ Nat.gcd s.buf.g s.buf.n2 = 1
    ∧ lDefined (modexp s.buf.g s.buf.lambda s.buf.n2) s.buf.n = true
    ∧ Nat.gcd (lFun (modexp s.buf.g s.buf.lambda s.buf.n2) s.buf.n) s.buf.n = 1
    ∧ s.buf.u = modinv (lFun (modexp s.buf.g s.buf.lambda s.buf.n2) s.buf.n) s.buf.n

/-- The host's next access writes the word of command `i` to CMD (R302, R310). -/
def nextIsCommand (s : State) (i : Instr) : Bool :=
  match s.inputs with
  | .host (.write off size w) :: _ => off == 0x00C && size == 4 && w == encode i
  | _ => false

/-- The host's next access is a write of one aligned word to word `i` of buffer `b` (R201). -/
def nextWritesWord (s : State) (b : Buf) (i : Nat) : Bool :=
  match s.inputs with
  | .host (.write off size _) :: _ => off == b.offset i && size == 4
  | _ => false

/-- The next event is reset (R800). -/
def nextIsReset (s : State) : Bool :=
  match s.inputs with
  | .reset :: _ => true
  | _ => false

/-- The next event, if it is a host access, is inside the window (R200). -/
def nextInWindow (s : State) : Bool :=
  match s.inputs with
  | .host (.read off _) :: _ => off < Config.window
  | .host (.write off _ _) :: _ => off < Config.window
  | _ => true

end Sys2Proof.Machine
end

