-- ==== Sys2Proof/Certificates/Slice0/Obligations.lean ====
section
/-! DEFINITION. The statements for the provers. -/

open Sys2Proof Sys2Proof.Machine

/-! Encoding and dispatch -/

/-- R302: a command word selects a command exactly when it equals the table's word. -/
def Obligations.DecoderAcceptsExactlyTheTableWords : Prop :=
  ∀ (w : Word) (i : Instr), decode w = .ok i ↔ w = encode i

/-- R303: every word with RSV != 0, and every word with OPC 0x08 to 0xFF, is illegal, and no other word is. -/
def Obligations.IllegalWordsAreExactlyTheReservedOnes : Prop :=
  ∀ w : Word,
    ((∃ e, decode w = .error e) ↔ w.extractLsb' 8 24 ≠ 0#24 ∨ 0x08 ≤ (w.extractLsb' 0 8).toNat)
    ∧ (wordWellFormed w = true ↔ ∃ i, decode w = .ok i)

/-- R302, R303: the words written out. -/
def Obligations.CommandWordsDecodeToTheirCommands : Prop :=
  decode 0x00000000#32 = .ok .nop ∧ decode 0x00000001#32 = .ok .keygen ∧ decode 0x00000002#32 = .ok .dec
  ∧ decode 0x00000003#32 = .ok .decx ∧ decode 0x00000004#32 = .ok .loadpriv ∧ decode 0x00000005#32 = .ok .abort
  ∧ decode 0x00000006#32 = .ok .clrstat ∧ decode 0x00000007#32 = .ok .zeroize
  ∧ decode 0x00000008#32 = .error .reservedOpcode ∧ decode 0x00000105#32 = .error .reservedBits

/-- R310: a step whose event is a write of a command's word to CMD runs that command, after the write is
acknowledged on the bus (`inputs` and `bus` are the model's own fields, log entries 1 and 3). -/
def Obligations.StepRunsTheDecodedCommand : Prop :=
  ∀ (s : State) (w : Word) (i : Instr) (rest : List Event),
    s.inputs = .host (.write 0x00C 4 w) :: rest → decode w = .ok i →
    step s = exec i { s with inputs := rest, bus := .writeDone }

/-- R310, R303: the dispatch of a CMD write, in its order: ABORT, then the BUSY check, then the illegal words, then
the command. That the access is the head of `inputs`, and that its acknowledgement stands in `bus`, is the model's
representation (log entries 1, 3 and 17). -/
def Obligations.CmdWriteIsDispatchedInOrder : Prop :=
  ∀ (s : State) (v : Word) (rest : List Event), s.inputs = .host (.write 0x00C 4 v) :: rest →
    let s₀ : State := { s with inputs := rest, bus := .writeDone }
    step s =
      if v = 0x00000005#32 then exec .abort s₀
      else if s.fsm ≠ .idle then .next { s₀ with status := { s.status with ovr := true } }
      else if v.extractLsb' 8 24 ≠ 0#24 ∨ 0x08 ≤ (v.extractLsb' 0 8).toNat then
        .next (raiseError .illegalCmd s₀)
      else if v.extractLsb' 0 8 = 0x00#8 then exec .nop s₀
      else if v.extractLsb' 0 8 = 0x01#8 then exec .keygen s₀
      else if v.extractLsb' 0 8 = 0x02#8 then exec .dec s₀
      else if v.extractLsb' 0 8 = 0x03#8 then exec .decx s₀
      else if v.extractLsb' 0 8 = 0x04#8 then exec .loadpriv s₀
      else if v.extractLsb' 0 8 = 0x06#8 then exec .clrstat s₀
      else exec .zeroize s₀

/-- R710, R711: what an error completion and a success completion change, and nothing else. No request is outstanding
afterwards, since IDLE has none (R140, R143, R612). -/
def Obligations.CompletionsRecordTheOutcome : Prop :=
  ∀ (s : State) (code : ErrCode),
    raiseError code s =
      { s with
        status := { s.status with err := true, done := false, errCode := code }
        regs := { s.regs with irqStat := s.regs.irqStat ||| 0b10#2 }
        fsm := .idle, req := none }
    ∧ complete s =
      { s with
        status := { s.status with done := true, err := false, errCode := .none }
        regs := { s.regs with irqStat := s.regs.irqStat ||| 0b01#2 }
        fsm := .idle, req := none }

/-! The commands -/

/-- R610: NOP has no effect. While a command runs it is dropped and sets OVR. -/
def Obligations.NopChangesNothing : Prop :=
  ∀ s : State,
    (s.fsm = .idle → exec .nop s = .next s)
    ∧ (s.fsm ≠ .idle → exec .nop s = .next { s with status := { s.status with ovr := true } })

/-- R611: CLRSTAT clears DONE, ERR, OVR and ERRCODE and changes nothing else. While a command runs it is dropped and
sets OVR. -/
def Obligations.ClrstatClearsTheOutcomeOnly : Prop :=
  ∀ s : State,
    (s.fsm = .idle →
      exec .clrstat s =
        .next { s with status := { s.status with done := false, err := false, ovr := false, errCode := .none } })
    ∧ (s.fsm ≠ .idle → exec .clrstat s = .next { s with status := { s.status with ovr := true } })

/-- R612, R143: ABORT cancels the request and ends the running command with ABORTED. In IDLE it does nothing. -/
def Obligations.AbortEndsTheRunningCommand : Prop :=
  ∀ s : State,
    (s.fsm = .idle → exec .abort s = .next s)
    ∧ (s.fsm ≠ .idle →
      exec .abort s =
        .next
          { s with
            status := { s.status with err := true, done := false, errCode := .aborted }
            regs := { s.regs with irqStat := s.regs.irqStat ||| 0b10#2 }
            fsm := .idle, req := none })

/-- R613: ZEROIZE erases every buffer, internal buffer and latch, and the key and result fields. It keeps OVR,
KEYBITS, CERTAINTY and IRQ_EN. While a command runs it is dropped and sets OVR. -/
def Obligations.ZeroizeErasesEverything : Prop :=
  ∀ s : State,
    (s.fsm = .idle →
      exec .zeroize s =
        .next
          { s with
            status :=
              { done := true, err := false, ovr := s.status.ovr, keyPub := false, keyPriv := false,
                resultValid := false, clamped := false, movf := false, errCode := .none }
            regs :=
              { s.regs with
                keybitsEff := 0, nbits := 0, ptbs := 0, ctbs := 0, pdrawCnt := 0, gdrawCnt := 0
                irqStat := s.regs.irqStat ||| 0b01#2 }
            buf := { n := 0, n2 := 0, g := 0, lambda := 0, u := 0, c := 0, x := 0, m := 0 }
            hid := { p := 0, q := 0, t := 0, lv := 0, khalf := 0, cert := 0 }
            fsm := .idle, req := none })
    ∧ (s.fsm ≠ .idle → exec .zeroize s = .next { s with status := { s.status with ovr := true } })

/-- R400: the acceptance of KEYGEN. -/
def Obligations.KeygenIsAccepted : Prop :=
  ∀ s : State, s.fsm = .idle →
    exec .keygen s =
      .next
        { s with
          status :=
            { done := false, err := false, ovr := s.status.ovr, keyPub := false, keyPriv := false,
              resultValid := false, clamped := false, movf := false, errCode := .none }
          regs := { s.regs with nbits := 0, ptbs := 0, ctbs := 0 }
          fsm := .kgClamp, req := none }

/-- R502: the acceptance of DEC under a committed private key, with the request of DEC_EXP (R510). -/
def Obligations.DecIsAcceptedWithAPrivateKey : Prop :=
  ∀ s : State, s.fsm = .idle → s.status.keyPriv = true →
    exec .dec s =
      .next
        { s with
          status :=
            { s.status with
              done := false, err := false, errCode := .none, resultValid := false, movf := false }
          fsm := .decExp, req := some (.modexp s.buf.c s.buf.lambda s.buf.n2) }

/-- R501: without a committed private key, DEC and DECX end with INVALID_KEY and change nothing else. -/
def Obligations.DecryptionNeedsAPrivateKey : Prop :=
  ∀ (s : State) (i : Instr), i = .dec ∨ i = .decx → s.fsm = .idle → s.status.keyPriv = false →
    exec i s =
      .next
        { s with
          status := { s.status with err := true, done := false, errCode := .invalidKey }
          regs := { s.regs with irqStat := s.regs.irqStat ||| 0b10#2 }
          fsm := .idle, req := none }

/-- R503: the acceptance of DECX under a committed private key: X_RANGE for X at or above N2, DEC_L otherwise. -/
def Obligations.DecxIsAcceptedBelowTheSquare : Prop :=
  ∀ s : State, s.fsm = .idle → s.status.keyPriv = true →
    (s.buf.x < s.buf.n2 →
      exec .decx s =
        .next
          { s with
            status :=
              { s.status with
                done := false, err := false, errCode := .none, resultValid := false, movf := false }
            fsm := .decL, req := none })
    ∧ (s.buf.n2 ≤ s.buf.x → exec .decx s = .next (raiseError .xRange s))

/-- R500: LOADPRIV commits a modulus from 2 up to KB_MAX bits. For any other N it ends with KEY_RANGE, and then
nothing but the error status changes. -/
def Obligations.LoadprivCommitsOrRejectsTheModulus : Prop :=
  ∀ s : State, s.fsm = .idle →
    (2 ≤ s.buf.n → bitLength s.buf.n ≤ s.build.kbMax →
      exec .loadpriv s =
        .next
          { s with
            status :=
              { s.status with
                done := true, err := false, errCode := .none, keyPriv := true, resultValid := false }
            regs :=
              { s.regs with
                nbits := BitVec.ofNat 32 (bitLength s.buf.n)
                ptbs := BitVec.ofNat 32 ((bitLength s.buf.n - 1) / 8)
                ctbs := BitVec.ofNat 32 ((bitLength s.buf.n + 7) / 8 * 2)
                irqStat := s.regs.irqStat ||| 0b01#2 }
            buf := { s.buf with n2 := s.buf.n * s.buf.n }
            fsm := .idle, req := none })
    ∧ (s.buf.n < 2 ∨ s.build.kbMax < bitLength s.buf.n →
      exec .loadpriv s =
        .next
          { s with
            status := { s.status with err := true, done := false, errCode := .keyRange }
            regs := { s.regs with irqStat := s.regs.irqStat ||| 0b10#2 }
            fsm := .idle, req := none })

/-- R210: while a command runs, every command but ABORT is dropped, sets OVR and changes nothing else. -/
def Obligations.CommandsAreDroppedWhileBusy : Prop :=
  ∀ (s : State) (i : Instr), s.fsm ≠ .idle → i ≠ .abort →
    exec i s = .next { s with status := { s.status with ovr := true } }

/-- Every command answers a next state in every state: no command stops the machine. -/
def Obligations.EveryCommandAnswersANextState : Prop :=
  ∀ (i : Instr) (s : State), ∃ t, exec i s = .next t

/-- The frame of the commands: what a host write of a command word leaves unchanged in its own step. -/
def Obligations.CommandsKeepWhatTheyDoNotName : Prop :=
  ∀ (i : Instr) (s t : State), exec i s = .next t →
    SameOutside s t ∧ t.build = s.build
    ∧ t.regs.keybits = s.regs.keybits ∧ t.regs.certainty = s.regs.certainty ∧ t.regs.irqEn = s.regs.irqEn
    ∧ (i ≠ .zeroize → t.hid = s.hid)
    ∧ (i ≠ .zeroize → t.regs.keybitsEff = s.regs.keybitsEff ∧ t.regs.pdrawCnt = s.regs.pdrawCnt
        ∧ t.regs.gdrawCnt = s.regs.gdrawCnt)
    ∧ (i ≠ .zeroize → i ≠ .loadpriv → t.buf = s.buf)
    ∧ (i = .loadpriv → t.buf = { s.buf with n2 := t.buf.n2 })
    ∧ (i = .nop ∨ i = .dec ∨ i = .decx ∨ i = .abort ∨ i = .clrstat → SameRegsButIrqStat s t)
    ∧ (s.fsm = .idle → i ≠ .clrstat → t.status.ovr = s.status.ovr)
    ∧ s.regs.irqStat &&& t.regs.irqStat = s.regs.irqStat
    ∧ (i ≠ .keygen → i ≠ .zeroize → t.status.clamped = s.status.clamped ∧ t.status.keyPub = s.status.keyPub)
    ∧ (i = .nop ∨ i = .abort ∨ i = .clrstat →
        t.status.keyPriv = s.status.keyPriv ∧ t.status.resultValid = s.status.resultValid
        ∧ t.status.movf = s.status.movf)
    ∧ ((∀ b, i ≠ .zeroize → (i = .loadpriv → b ≠ .n2) → ∀ k, bufWord t b k = bufWord s b k))

/-! The agents and the FSM states -/

/-- R131, R143: whose step an event is, and which agent has a step in which state. That the events stand in a queue is
the model's choice (log entry 1, DESIGN CHOICE), a late response or one with no request outstanding is discarded by
inference (log entry 15, DEDUCED), and what happens with nothing queued is the model's choice, in IDLE, in an internal
state and in a service state (log entry 2, DESIGN CHOICE). -/
def Obligations.EachAgentTakesItsOwnStep : Prop :=
  (∀ (s : State) (rest : List Event), s.inputs = .fsm :: rest → step s = fsmStep { s with inputs := rest })
  ∧ (∀ (s : State) (d : Nat) (rest : List Event),
      s.inputs = .respond d :: rest → step s = serviceStep d { s with inputs := rest })
  ∧ (∀ (s : State) (d : Nat) (rest : List Event),
      s.inputs = .lateRespond d :: rest → step s = .next { s with inputs := rest })
  ∧ (∀ s : State, s.fsm.kind ≠ .internal → fsmStep s = .next s)
  ∧ (∀ (s : State) (d : Nat), s.req = none → serviceStep d s = .next s)
  ∧ (∀ s : State, s.inputs = [] → s.fsm = .idle → step s = .next s)
  ∧ (∀ s : State, s.inputs = [] → s.fsm.kind = .internal → step s = fsmStep s)
  ∧ (∀ s : State, s.inputs = [] → s.fsm.kind = .service →
      step s = .next { s with freeCtr := s.freeCtr + 1 }
      ∨ ∃ d, step s = serviceStep d { s with freeCtr := s.freeCtr + 1 })

/-- R410: KG_CLAMP takes a key size in `[KB_MIN, KB_MAX]`, and KB_DEF for any other. -/
def Obligations.KgClampBoundsTheKeySize : Prop :=
  ∀ s : State, s.fsm = .kgClamp →
    let inRange : Bool := s.build.kbMin ≤ s.regs.keybits.toNat && s.regs.keybits.toNat ≤ s.build.kbMax
    let eff : Word := if inRange then s.regs.keybits else BitVec.ofNat 32 s.build.kbDef
    fsmStep s =
      .next
        { s with
          status := { s.status with clamped := !inRange }
          regs := { s.regs with keybitsEff := eff, pdrawCnt := 0, gdrawCnt := 0 }
          hid := { s.hid with khalf := eff / 2, cert := s.regs.certainty }
          fsm := .kgPgen, req := some (.primegen (eff.toNat / 2) s.regs.certainty.toNat) }

/-- R411: KG_PGEN takes a draw of KHALF bits as P, and ends with EXT_CONTRACT otherwise. The draw is counted either
way (R124). -/
def Obligations.KgPgenTakesAPrimeOfKhalfBits : Prop :=
  ∀ (s : State) (v : Nat), s.fsm = .kgPgen →
    s.req = some (.primegen s.hid.khalf.toNat s.hid.cert.toNat) →
    let counted : State := { s with regs := { s.regs with pdrawCnt := saturatingInc s.regs.pdrawCnt } }
    (saturatingInc s.regs.pdrawCnt).toNat = min (s.regs.pdrawCnt.toNat + 1) 0xFFFFFFFF
    ∧ (bitLength v ≠ s.hid.khalf.toNat → serviceStep v s = .next (raiseError .extContract counted))
    ∧ (bitLength v = s.hid.khalf.toNat →
      serviceStep v s =
        .next
          { counted with
            hid := { s.hid with p := v }
            fsm := .kgQgen, req := some (.primegen s.hid.khalf.toNat s.hid.cert.toNat) })

/-- R412: KG_QGEN takes a draw of KHALF bits as Q, draws again while it equals P, and ends with EXT_CONTRACT for another
bit length. -/
def Obligations.KgQgenRedrawsUntilThePrimesDiffer : Prop :=
  ∀ (s : State) (v : Nat), s.fsm = .kgQgen →
    s.req = some (.primegen s.hid.khalf.toNat s.hid.cert.toNat) →
    let counted : State := { s with regs := { s.regs with pdrawCnt := saturatingInc s.regs.pdrawCnt } }
    (saturatingInc s.regs.pdrawCnt).toNat = min (s.regs.pdrawCnt.toNat + 1) 0xFFFFFFFF
    ∧ (bitLength v ≠ s.hid.khalf.toNat → serviceStep v s = .next (raiseError .extContract counted))
    ∧ (bitLength v = s.hid.khalf.toNat → v = s.hid.p →
      serviceStep v s =
        .next
          { counted with
            hid := { s.hid with q := v }
            fsm := .kgQgen, req := some (.primegen s.hid.khalf.toNat s.hid.cert.toNat) })
    ∧ (bitLength v = s.hid.khalf.toNat → v ≠ s.hid.p →
      serviceStep v s = .next { counted with hid := { s.hid with q := v }, fsm := .kgN, req := none })

/-- R413: KG_N computes the modulus and its square. -/
def Obligations.KgNMultipliesThePrimes : Prop :=
  ∀ s : State, s.fsm = .kgN →
    fsmStep s =
      .next
        { s with
          buf := { s.buf with n := s.hid.p * s.hid.q, n2 := (s.hid.p * s.hid.q) * (s.hid.p * s.hid.q) }
          fsm := .kgLgcd, req := some (.gcd (s.hid.p - 1) (s.hid.q - 1)) }

/-- R414: KG_LGCD computes lambda as the least common multiple, by an exact division. P and Q are at least 2 there
(R401). -/
def Obligations.KgLgcdComputesLambda : Prop :=
  ∀ (s : State) (d : Nat), s.fsm = .kgLgcd → s.req = some (.gcd (s.hid.p - 1) (s.hid.q - 1)) →
    2 ≤ s.hid.p → 2 ≤ s.hid.q →
    let g := Nat.gcd (s.hid.p - 1) (s.hid.q - 1)
    g ∣ (s.hid.p - 1) * (s.hid.q - 1)
    ∧ serviceStep d s =
      .next
        { s with
          hid := { s.hid with t := g }
          buf := { s.buf with lambda := (s.hid.p - 1) * (s.hid.q - 1) / g }
          fsm := .kgGdraw, req := some (.rand (bitLength s.buf.n2)) }

/-- R415: KG_GDRAW checks the contract of RAND, then screens the candidate against N2. -/
def Obligations.KgGdrawScreensTheCandidate : Prop :=
  ∀ (s : State) (v : Nat), s.fsm = .kgGdraw → s.req = some (.rand (bitLength s.buf.n2)) →
    let counted : State := { s with regs := { s.regs with gdrawCnt := saturatingInc s.regs.gdrawCnt } }
    (saturatingInc s.regs.gdrawCnt).toNat = min (s.regs.gdrawCnt.toNat + 1) 0xFFFFFFFF
    ∧ (2 ^ bitLength s.buf.n2 ≤ v → serviceStep v s = .next (raiseError .extContract counted))
    ∧ (v < 2 ^ bitLength s.buf.n2 → s.buf.n2 ≤ v →
      serviceStep v s =
        .next
          { counted with
            buf := { s.buf with g := v }, fsm := .kgGdraw, req := some (.rand (bitLength s.buf.n2)) })
    ∧ (v < 2 ^ bitLength s.buf.n2 → v < s.buf.n2 →
      serviceStep v s =
        .next { counted with buf := { s.buf with g := v }, fsm := .kgGcop, req := some (.gcd v s.buf.n2) })

/-- R417, R419: KG_GCOP and KG_GLGCD draw a new candidate unless the GCD they ask for is 1. -/
def Obligations.TheGcdScreensDrawAgain : Prop :=
  ∀ (s : State) (d : Nat),
    (s.fsm = .kgGcop → s.req = some (.gcd s.buf.g s.buf.n2) →
      let g := Nat.gcd s.buf.g s.buf.n2
      (g ≠ 1 →
        serviceStep d s =
          .next { s with hid := { s.hid with t := g }, fsm := .kgGdraw, req := some (.rand (bitLength s.buf.n2)) })
      ∧ (g = 1 →
        serviceStep d s =
          .next
            { s with
              hid := { s.hid with t := g }
              fsm := .kgGexp, req := some (.modexp s.buf.g s.buf.lambda s.buf.n2) }))
    ∧ (s.fsm = .kgGlgcd → s.req = some (.gcd s.hid.lv s.buf.n) →
      let g := Nat.gcd s.hid.lv s.buf.n
      (g ≠ 1 →
        serviceStep d s =
          .next { s with hid := { s.hid with t := g }, fsm := .kgGdraw, req := some (.rand (bitLength s.buf.n2)) })
      ∧ (g = 1 →
        serviceStep d s =
          .next { s with hid := { s.hid with t := g }, fsm := .kgU, req := some (.modinv s.hid.lv s.buf.n) }))

/-- R418, R510: KG_GEXP and DEC_EXP put the exact modular power of the recorded arguments into X. N2 is not 0 there. -/
def Obligations.ExponentiationStatesWriteX : Prop :=
  ∀ (s : State) (d : Nat), 1 ≤ s.buf.n2 →
    (s.fsm = .kgGexp → s.req = some (.modexp s.buf.g s.buf.lambda s.buf.n2) →
      serviceStep d s =
        .next
          { s with
            buf := { s.buf with x := s.buf.g ^ s.buf.lambda % s.buf.n2 }
            fsm := .kgGl, req := none })
    ∧ (s.fsm = .decExp → s.req = some (.modexp s.buf.c s.buf.lambda s.buf.n2) →
      serviceStep d s =
        .next
          { s with
            buf := { s.buf with x := s.buf.c ^ s.buf.lambda % s.buf.n2 }
            fsm := .decL, req := none })

/-- R416: KG_GL writes L(X, N), or ends with KG_NONEXACT where L is not defined. -/
def Obligations.KgGlNeedsAnExactDivision : Prop :=
  ∀ s : State, s.fsm = .kgGl → 1 ≤ s.buf.n →
    (s.buf.x = 0 ∨ (s.buf.x - 1) % s.buf.n ≠ 0 → fsmStep s = .next (raiseError .kgNonexact s))
    ∧ (s.buf.x ≠ 0 → (s.buf.x - 1) % s.buf.n = 0 →
      fsmStep s =
        .next
          { s with
            hid := { s.hid with lv := (s.buf.x - 1) / s.buf.n }
            fsm := .kgGlgcd, req := some (.gcd ((s.buf.x - 1) / s.buf.n) s.buf.n) })

/-- R420: KG_U writes the modular inverse of L, which KG_GLGCD has found coprime to N. -/
def Obligations.KgUInvertsL : Prop :=
  ∀ (s : State) (d : Nat), s.fsm = .kgU → s.req = some (.modinv s.hid.lv s.buf.n) → 1 ≤ s.buf.n →
    Nat.gcd s.hid.lv s.buf.n = 1 →
    ∃ u, u < s.buf.n ∧ s.hid.lv * u % s.buf.n = 1 % s.buf.n
      ∧ serviceStep d s = .next { s with buf := { s.buf with u := u }, fsm := .kgDone, req := none }

/-- R421: KG_DONE writes the block sizes, commits the key and completes. -/
def Obligations.KgDoneCommitsTheKey : Prop :=
  ∀ s : State, s.fsm = .kgDone →
    fsmStep s =
      .next
        { s with
          status :=
            { s.status with
              keyPub := true, keyPriv := true, done := true, err := false, errCode := .none }
          regs :=
            { s.regs with
              nbits := BitVec.ofNat 32 (bitLength s.buf.n)
              ptbs := BitVec.ofNat 32 ((bitLength s.buf.n - 1) / 8)
              ctbs := BitVec.ofNat 32 ((bitLength s.buf.n + 7) / 8 * 2)
              irqStat := s.regs.irqStat ||| 0b01#2 }
          fsm := .idle, req := none }

/-- R520: DEC_L writes L(X, N), or ends with DEC_NONEXACT where L is not defined. -/
def Obligations.DecLNeedsAnExactDivision : Prop :=
  ∀ s : State, s.fsm = .decL → 1 ≤ s.buf.n →
    (s.buf.x = 0 ∨ (s.buf.x - 1) % s.buf.n ≠ 0 → fsmStep s = .next (raiseError .decNonexact s))
    ∧ (s.buf.x ≠ 0 → (s.buf.x - 1) % s.buf.n = 0 →
      fsmStep s =
        .next { s with hid := { s.hid with lv := (s.buf.x - 1) / s.buf.n }, fsm := .decMul, req := none })

/-- R521: DEC_MUL writes M and MOVF and completes. -/
def Obligations.DecMulWritesTheResult : Prop :=
  ∀ s : State, s.fsm = .decMul → 1 ≤ s.buf.n →
    let m := s.hid.lv * s.buf.u % s.buf.n
    m < s.buf.n
    ∧ fsmStep s =
      .next
        { s with
          buf := { s.buf with m := m }
          status :=
            { s.status with
              movf := decide (2 ^ (8 * s.regs.ptbs.toNat) ≤ m), resultValid := true
              done := true, err := false, errCode := .none }
          regs := { s.regs with irqStat := s.regs.irqStat ||| 0b01#2 }
          fsm := .idle, req := none }

/-! The arithmetic of the service -/

/-- R14: MODEXP(b, e, m) for `m >= 1` is `(b^e) mod m`, with `b^0 = 1`. -/
def Obligations.ModexpIsTheExactPower : Prop :=
  ∀ b e m : Nat, 1 ≤ m → modexp b e m = b ^ e % m

/-- R14: MODINV(a, m) for `m >= 1` and `GCD(a, m) = 1` is the unique inverse in `[0, m)`. -/
def Obligations.ModinvIsTheUniqueInverse : Prop :=
  ∀ a m : Nat, 1 ≤ m → Nat.gcd a m = 1 →
    modinv a m < m ∧ a * modinv a m % m = 1 % m ∧ ∀ v, v < m → a * v % m = 1 % m → v = modinv a m

/-! The window -/

/-- R203: word `i` of a buffer holds its bits `32*(W-i)-1` down to `32*(W-1-i)`, and the words determine the number. -/
def Obligations.BuffersAreBigEndianWords : Prop :=
  (∀ (s : State) (b : Buf) (i : Nat), i < b.words s.build →
    (bufWord s b i).toNat = s.buf.get b / 2 ^ (32 * (b.words s.build - 1 - i)) % 2 ^ 32)
  ∧ ∀ (s t : State) (b : Buf), t.build = s.build →
    s.buf.get b < 2 ^ (32 * b.words s.build) → t.buf.get b < 2 ^ (32 * b.words s.build) →
    (∀ i, i < b.words s.build → bufWord s b i = bufWord t b i) → s.buf.get b = t.buf.get b

/-- R205, R207: while no command runs, a word written to a host-writable buffer reads back, in a block of any build R401
allows. -/
def Obligations.AWrittenBufferWordReadsBack : Prop :=
  ∀ (s : State) (b : Buf) (i : Nat) (v : Word) (rest : List Event),
    s.build.Legal → s.fsm = .idle → b.hostWritable = true → i < b.words s.build →
    s.inputs = .host (.write (b.offset i) 4 v) :: .host (.read (b.offset i) 4) :: rest →
    ∃ t, Sys2Proof.core.run 2 s = .next t ∧ t.bus = .readData v ∧ t.inputs = rest

/-- R207: a buffer write changes that word only. Every other word of every buffer reads as before, and the internal
buffers, the FSM, IRQ_EN, IRQ_STAT, the counters, DONE, ERR, OVR and ERRCODE are as before. The block is of any build
R401 allows. -/
def Obligations.ABufferWriteKeepsEveryOtherWord : Prop :=
  ∀ (s : State) (b : Buf) (i : Nat) (v : Word) (rest : List Event),
    s.build.Legal → s.fsm = .idle → b.hostWritable = true → i < b.words s.build →
    s.inputs = .host (.write (b.offset i) 4 v) :: rest →
    ∃ t, step s = .next t ∧ t.inputs = rest ∧ t.bus = .writeDone ∧ t.freeCtr = s.freeCtr
      ∧ bufWord t b i = v
      ∧ (∀ (b' : Buf) (j : Nat), j < b'.words s.build → ¬(b' = b ∧ j = i) → bufWord t b' j = bufWord s b' j)
      ∧ t.hid = s.hid ∧ t.fsm = s.fsm ∧ t.req = s.req
      ∧ t.regs = { s.regs with nbits := t.regs.nbits, ptbs := t.regs.ptbs, ctbs := t.regs.ctbs }
      ∧ t.status =
          { s.status with
            keyPub := t.status.keyPub, keyPriv := t.status.keyPriv, resultValid := t.status.resultValid }

/-- R127: what a host write to a buffer does to the committed key, whatever the value written, in a block of any build
R401 allows. -/
def Obligations.BufferWritesUncommitTheKey : Prop :=
  ∀ (s : State) (b : Buf) (i : Nat) (v : Word) (rest : List Event),
    s.build.Legal → s.fsm = .idle → b.hostWritable = true → i < b.words s.build →
    s.inputs = .host (.write (b.offset i) 4 v) :: rest →
    ∃ t, step s = .next t ∧ t.buf = s.buf.set b (setWord (b.words s.build) (s.buf.get b) i v)
      ∧ (b = .n →
          t.status = { s.status with keyPub := false, keyPriv := false, resultValid := false }
          ∧ t.regs = { s.regs with nbits := 0, ptbs := 0, ctbs := 0 } ∧ t.buf.n2 = s.buf.n2)
      ∧ (b = .g → t.status = { s.status with keyPub := false } ∧ t.regs = s.regs)
      ∧ (b = .lambda ∨ b = .u →
          t.status = { s.status with keyPriv := false, resultValid := false } ∧ t.regs = s.regs)
      ∧ (b = .c ∨ b = .x → t.status = s.status ∧ t.regs = s.regs)

/-- R105, R106, R115: the fields of STATUS, with the reserved bits 0. -/
def Obligations.StatusFieldsStandWhereTheTableSays : Prop :=
  ∀ s : State,
    (statusWord s).getLsbD 0 = decide (s.fsm ≠ .idle) ∧ (statusWord s).getLsbD 1 = s.status.done
    ∧ (statusWord s).getLsbD 2 = s.status.err ∧ (statusWord s).getLsbD 3 = s.status.ovr
    ∧ (statusWord s).getLsbD 4 = s.status.keyPub ∧ (statusWord s).getLsbD 5 = s.status.keyPriv
    ∧ (statusWord s).getLsbD 6 = s.status.resultValid ∧ (statusWord s).getLsbD 7 = s.status.clamped
    ∧ (statusWord s).getLsbD 8 = s.status.movf ∧ (statusWord s).extractLsb' 9 7 = 0#7
    ∧ (statusWord s).extractLsb' 16 4 = s.status.errCode.code ∧ (statusWord s).extractLsb' 20 4 = 0#4
    ∧ (statusWord s).extractLsb' 24 5 = s.fsm.code ∧ (statusWord s).extractLsb' 29 3 = 0#3

/-- R101 to R104, R116 to R125, R205: what a read of each control register returns, whether or not a command runs.
The answer stands in the model's own field `bus` (log entry 3). -/
def Obligations.ControlRegistersReadAtTheirOffsets : Prop :=
  ∀ (s : State) (rest : List Event) (off : Nat) (w : Word),
    s.inputs = .host (.read off 4) :: rest →
    (off, w) ∈
      [(0x000, 0x504B4744#32), (0x004, 0x00000001#32),
       (0x008, 0#8 ++ BitVec.ofNat 8 ((s.build.kbMax + 31) / 32) ++ BitVec.ofNat 16 s.build.kbMax),
       (0x00C, 0x00000000#32), (0x010, statusWord s), (0x014, s.regs.keybits), (0x018, s.regs.certainty),
       (0x01C, s.regs.keybitsEff), (0x020, s.regs.nbits), (0x024, s.regs.ptbs), (0x028, s.regs.ctbs),
       (0x02C, s.regs.irqEn.zeroExtend 32), (0x030, s.regs.irqStat.zeroExtend 32),
       (0x034, s.regs.pdrawCnt), (0x038, s.regs.gdrawCnt)] →
    step s = .next { s with inputs := rest, bus := .readData w }

/-- R205, R206, R209: a buffer word read while no command runs is the word of the buffer's value; while one runs it is
any word (log entry 4), but still changes nothing of the block; a reserved offset reads 0. The answer
stands in the model's own field `bus` (log entry 3). -/
def Obligations.BufferAndReservedReads : Prop :=
  ∀ (s : State) (rest : List Event) (off : Nat), s.inputs = .host (.read off 4) :: rest →
    (∀ (b : Buf) (i : Nat), s.build.Legal → i < b.words s.build → off = b.offset i → s.fsm = .idle →
      step s = .next { s with inputs := rest, bus := .readData (bufWord s b i) })
    ∧ (∀ (b : Buf) (i : Nat), s.build.Legal → i < b.words s.build → off = b.offset i → s.fsm ≠ .idle →
      ∃ w, step s = .next { s with inputs := rest, bus := .readData w, freeCtr := s.freeCtr + 1 })
    ∧ (off < 0x2400 → off % 4 = 0 → 0x3C ≤ off →
      (∀ (b : Buf) (i : Nat), i < b.words s.build → off ≠ b.offset i) →
      step s = .next { s with inputs := rest, bus := .readData 0 })

/-- R205, R212: no read has a side effect on any state of the block, and a repeated identical write anywhere but at CMD
does nothing more than the first. -/
def Obligations.ReadsAndRepeatedWritesHaveNoSideEffect : Prop :=
  (∀ (s : State) (off size : Nat) (rest : List Event),
    s.inputs = .host (.read off size) :: rest → off < 0x2400 →
    ∃ t, step s = .next t ∧ SameBlock s t ∧ t.inputs = rest)
  ∧ ∀ (s : State) (off : Nat) (v : Word) (rest : List Event),
    s.inputs = .host (.write off 4 v) :: .host (.write off 4 v) :: rest → off < 0x2400 → off % 4 = 0 →
    off ≠ 0x00C → ∃ t, step s = .next t ∧ step t = .next { t with inputs := rest }

/-- R202: an access of another size or at an unaligned offset gets a bus error with data 0 and changes no state.
The answer stands in the model's own field `bus` (log entry 3). -/
def Obligations.OnlyAlignedWordsAreAccessed : Prop :=
  ∀ (s : State) (off size : Nat) (v : Word) (rest : List Event) (a : Access),
    a = .read off size ∨ a = .write off size v → s.inputs = .host a :: rest →
    off < 0x2400 → size ≠ 4 ∨ off % 4 ≠ 0 →
    step s = .next { s with inputs := rest, bus := .error 0 }

/-- R206, R208: a write to a read-only register or buffer, or to a reserved offset, is ignored without error and
without setting OVR, whether or not a command runs. -/
def Obligations.ReadOnlyAndReservedWritesAreIgnored : Prop :=
  ∀ (s : State) (off : Nat) (v : Word) (rest : List Event),
    s.inputs = .host (.write off 4 v) :: rest → off < 0x2400 → off % 4 = 0 →
    (off ∈ [0x000, 0x004, 0x008, 0x010, 0x01C, 0x020, 0x024, 0x028, 0x034, 0x038]
      ∨ (0x3C ≤ off ∧ ∀ (b : Buf) (i : Nat), b.hostWritable = true → i < b.words s.build → off ≠ b.offset i)) →
    step s = .next { s with inputs := rest, bus := .writeDone }

/-- R122, R123, R132: writes to IRQ_EN and IRQ_STAT, accepted whether or not a command runs, and the interrupt
output. -/
def Obligations.InterruptRegistersAndOutput : Prop :=
  ∀ (s : State) (v : Word) (rest : List Event),
    (s.inputs = .host (.write 0x02C 4 v) :: rest →
      step s =
        .next { s with inputs := rest, bus := .writeDone, regs := { s.regs with irqEn := v.extractLsb' 0 2 } })
    ∧ (s.inputs = .host (.write 0x030 4 v) :: rest →
      ∃ t, step s = .next { s with inputs := rest, bus := .writeDone, regs := { s.regs with irqStat := t } }
        ∧ ∀ i, i < 2 → t.getLsbD i = (s.regs.irqStat.getLsbD i && !v.getLsbD i))
    ∧ (irqLine s = true ↔ ∃ i, i < 2 ∧ s.regs.irqStat.getLsbD i = true ∧ s.regs.irqEn.getLsbD i = true)

/-- R210, R116, R117: KEYBITS and CERTAINTY take any value while no command runs; while one runs, writes to them and to
the host-writable buffers are dropped and set OVR. -/
def Obligations.HostWritesWaitForTheCommand : Prop :=
  ∀ (s : State) (off : Nat) (v : Word) (rest : List Event), s.inputs = .host (.write off 4 v) :: rest →
    (s.fsm = .idle → off = 0x014 →
      step s = .next { s with inputs := rest, bus := .writeDone, regs := { s.regs with keybits := v } })
    ∧ (s.fsm = .idle → off = 0x018 →
      step s = .next { s with inputs := rest, bus := .writeDone, regs := { s.regs with certainty := v } })
    ∧ (s.fsm ≠ .idle →
      (off = 0x014 ∨ off = 0x018
        ∨ ∃ (b : Buf) (i : Nat),
            s.build.Legal ∧ b.hostWritable = true ∧ i < b.words s.build ∧ off = b.offset i) →
      step s = .next { s with inputs := rest, bus := .writeDone, status := { s.status with ovr := true } })

/-! Rules of the whole machine -/

/-- R130, R131: the state register is advanced only by the steps of its table. The three commands that run leave IDLE;
a state goes to IDLE by reset, by ABORT or by the completion its own rule has; and every other move is one its rule
names. -/
def Obligations.TheStateFollowsItsTransitions : Prop :=
  ∀ s t : State, step s = .next t → t.fsm ≠ s.fsm →
    (s.fsm = .idle →
      (t.fsm = .kgClamp ∧ nextIsCommand s .keygen = true) ∨ (t.fsm = .decExp ∧ nextIsCommand s .dec = true)
      ∨ (t.fsm = .decL ∧ nextIsCommand s .decx = true))
    ∧ (t.fsm = .idle →
      nextIsReset s = true ∨ nextIsCommand s .abort = true
      ∨ s.fsm ∈ [.kgPgen, .kgQgen, .kgGdraw, .kgGl, .kgDone, .decL, .decMul])
    ∧ (s.fsm ≠ .idle → t.fsm ≠ .idle →
      (s.fsm, t.fsm) ∈
        [(FsmState.kgClamp, FsmState.kgPgen), (.kgPgen, .kgQgen), (.kgQgen, .kgN), (.kgN, .kgLgcd),
         (.kgLgcd, .kgGdraw), (.kgGdraw, .kgGcop), (.kgGcop, .kgGdraw), (.kgGcop, .kgGexp), (.kgGexp, .kgGl),
         (.kgGl, .kgGlgcd), (.kgGlgcd, .kgGdraw), (.kgGlgcd, .kgU), (.kgU, .kgDone), (.decExp, .decL),
         (.decL, .decMul)])

/-- R109: OVR is sticky. Only CLRSTAT and reset clear it. -/
def Obligations.OnlyClrstatAndResetClearOvr : Prop :=
  ∀ s t : State, step s = .next t → s.status.ovr = true → t.status.ovr = false →
    nextIsReset s = true ∨ (nextIsCommand s .clrstat = true ∧ s.fsm = .idle)

/-- R740: a pending interrupt is cleared only by a host write of 1 to its bit or by reset. -/
def Obligations.OnlyTheHostAndResetClearAnInterrupt : Prop :=
  ∀ (s t : State) (i : Nat), step s = .next t →
    s.regs.irqStat.getLsbD i = true → t.regs.irqStat.getLsbD i = false →
    nextIsReset s = true
    ∨ ∃ (v : Word) (rest : List Event), s.inputs = .host (.write 0x030 4 v) :: rest ∧ v.getLsbD i = true

/-- R126, R118, R8: the writers of M, N2, C and KEYBITS_EFF; and no step changes the build's parameters. -/
def Obligations.OnlyTheNamedWritersChangeABuffer : Prop :=
  ∀ s t : State, step s = .next t →
    t.build = s.build
    ∧ (t.buf.m ≠ s.buf.m → s.fsm = .decMul ∨ nextIsCommand s .zeroize = true ∨ nextIsReset s = true)
    ∧ (t.buf.n2 ≠ s.buf.n2 →
        s.fsm = .kgN ∨ nextIsCommand s .loadpriv = true ∨ nextIsCommand s .zeroize = true
        ∨ nextIsReset s = true)
    ∧ (t.buf.c ≠ s.buf.c →
        (∃ i, i < s.build.wN2 ∧ nextWritesWord s .c i = true) ∨ nextIsCommand s .zeroize = true
        ∨ nextIsReset s = true)
    ∧ (t.regs.keybitsEff ≠ s.regs.keybitsEff →
        s.fsm = .kgClamp ∨ nextIsCommand s .zeroize = true ∨ nextIsReset s = true)

/-- R150, R800: the reset values, and the same transition of the block from any state, whatever its parameters: KEYBITS
holds KB_DEF and CERTAINTY holds CERT_DEF. -/
def Obligations.ResetLeavesTheStatedValues : Prop :=
  (State.reset.status =
      { done := false, err := false, ovr := false, keyPub := false, keyPriv := false, resultValid := false,
        clamped := false, movf := false, errCode := .none }
    ∧ State.reset.regs =
      { keybits := 64, certainty := 64, keybitsEff := 0, nbits := 0, ptbs := 0, ctbs := 0, irqEn := 0, irqStat := 0,
        pdrawCnt := 0, gdrawCnt := 0 }
    ∧ State.reset.buf = { n := 0, n2 := 0, g := 0, lambda := 0, u := 0, c := 0, x := 0, m := 0 }
    ∧ State.reset.hid = { p := 0, q := 0, t := 0, lv := 0, khalf := 0, cert := 0 }
    ∧ State.reset.fsm = .idle ∧ State.reset.req = none ∧ statusWord State.reset = 0#32
    ∧ irqLine State.reset = false ∧ regWord State.reset .id = 0x504B4744#32
    ∧ regWord State.reset .version = 0x00000001#32 ∧ regWord State.reset .params = 0x00610C18#32)
  ∧ ∀ (s : State) (rest : List Event), s.inputs = .reset :: rest →
    ∃ t, step s = .next t
      ∧ SameBlock
          { State.reset with
            build := s.build
            regs :=
              { State.reset.regs with
                keybits := BitVec.ofNat 32 s.build.kbDef, certainty := BitVec.ofNat 32 s.build.certDef } }
          t

/-- The invariant holds at reset, for every build there is (R401), and the default one is. -/
def Obligations.ResetIsAGoodState : Prop :=
  Build.default.Legal ∧ Inv State.reset ∧ ∀ c : Build, c.Legal → Inv (State.resetOf c)

/-- The headline: every step keeps the invariant, from every good state and for every draw, every free value and every
order of the agents' steps. -/
def Obligations.EveryStepKeepsTheInvariant : Prop :=
  ∀ s t : State, Inv s → step s = .next t → Inv t

/-- From a good state no step stops, unless the host accesses an offset outside the window: every arithmetic function
is applied inside its domain (R10, R12 to R14, R401). -/
def Obligations.GoodStatesAlwaysStep : Prop :=
  ∀ s : State, Inv s → nextInWindow s = true → ∃ t, step s = .next t

/-- R430: what holds after a KEYGEN that completes with DONE. -/
def Obligations.CompletedKeygenLeavesAValidKey : Prop :=
  ∀ (s : State) (rest : List Event), Inv s → s.fsm = .kgDone → s.inputs = .fsm :: rest →
    ∃ t, step s = .next t ∧ t.status.done = true ∧ t.status.keyPub = true ∧ t.status.keyPriv = true
      ∧ t.buf.n = t.hid.p * t.hid.q ∧ t.hid.p ≠ t.hid.q
      ∧ bitLength t.hid.p = t.hid.khalf.toNat ∧ bitLength t.hid.q = t.hid.khalf.toNat
      ∧ t.buf.n2 = t.buf.n * t.buf.n
      ∧ t.buf.lambda = Nat.lcm (t.hid.p - 1) (t.hid.q - 1)
      ∧ t.buf.g < t.buf.n2 ∧ Nat.gcd t.buf.g t.buf.n2 = 1
      ∧ t.buf.x = t.buf.g ^ t.buf.lambda % t.buf.n2 ∧ t.buf.x % t.buf.n = 1
      ∧ t.hid.lv = (t.buf.x - 1) / t.buf.n ∧ Nat.gcd t.hid.lv t.buf.n = 1
      ∧ t.buf.u = modinv t.hid.lv t.buf.n ∧ t.buf.u * t.hid.lv % t.buf.n = 1
      ∧ t.regs.nbits.toNat = bitLength t.buf.n
      ∧ t.regs.ptbs.toNat = (t.regs.nbits.toNat - 1) / 8 ∧ t.regs.ctbs.toNat = (t.regs.nbits.toNat + 7) / 8 * 2
      ∧ GeneratedKey t

/-- R502, R510, R520, R521, R532: a DEC that is not interrupted computes the formula from C, N, LAMBDA and U alone, or
ends with DEC_NONEXACT with M as before. The service's number `d` does not matter. -/
def Obligations.DecComputesTheFormula : Prop :=
  ∀ (s : State) (d : Nat) (rest : List Event), s.fsm = .idle → s.status.keyPriv = true → Inv s →
    s.inputs = .host (.write 0x00C 4 0x00000002#32) :: .respond d :: .fsm :: rest →
    let x := s.buf.c ^ s.buf.lambda % (s.buf.n * s.buf.n)
    (x ≠ 0 → (x - 1) % s.buf.n = 0 → ∀ rest', rest = .fsm :: rest' →
      ∃ t, Sys2Proof.core.run 4 s = .next t ∧ t.fsm = .idle ∧ t.inputs = rest'
        ∧ t.status.done = true ∧ t.status.err = false ∧ t.status.resultValid = true
        ∧ t.buf.x = x ∧ t.buf.m = (x - 1) / s.buf.n * s.buf.u % s.buf.n
        ∧ t.status.movf = decide (2 ^ (8 * s.regs.ptbs.toNat) ≤ t.buf.m))
    ∧ (x = 0 ∨ (x - 1) % s.buf.n ≠ 0 →
      ∃ t, Sys2Proof.core.run 3 s = .next t ∧ t.fsm = .idle ∧ t.inputs = rest
        ∧ t.status.done = false ∧ t.status.err = true ∧ t.status.errCode = .decNonexact
        ∧ t.status.resultValid = false ∧ t.buf.m = s.buf.m)

/-- R530: under a key KEYGEN generated from two primes, DEC of an encryption of `m` ends with
`m` in M. That the four events of the DEC stand in a queue is the model's representation (log entry 1). -/
def Obligations.DecryptionInvertsEncryption : Prop :=
  ∀ (s : State) (m r d : Nat) (rest : List Event),
    s.fsm = .idle → s.status.keyPriv = true → GeneratedKey s → s.hid.p.Prime → s.hid.q.Prime →
    m < s.buf.n → 0 < r → r < s.buf.n → Nat.gcd r s.buf.n = 1 →
    s.buf.c = s.buf.g ^ m * r ^ s.buf.n % s.buf.n2 →
    s.inputs = .host (.write 0x00C 4 0x00000002#32) :: .respond d :: .fsm :: .fsm :: rest →
    ∃ t, Sys2Proof.core.run 4 s = .next t ∧ t.status.done = true ∧ t.status.resultValid = true ∧ t.buf.m = m

/-- R531: under the same premises, DEC of the product of two ciphertexts ends with the sum of the plaintexts.
That the four events of the DEC stand in a queue is the model's representation (log entry 1). -/
def Obligations.DecryptionAddsPlaintexts : Prop :=
  ∀ (s : State) (m₁ m₂ r₁ r₂ d : Nat) (rest : List Event),
    s.fsm = .idle → s.status.keyPriv = true → GeneratedKey s → s.hid.p.Prime → s.hid.q.Prime →
    m₁ < s.buf.n → m₂ < s.buf.n → 0 < r₁ → r₁ < s.buf.n → Nat.gcd r₁ s.buf.n = 1 →
    0 < r₂ → r₂ < s.buf.n → Nat.gcd r₂ s.buf.n = 1 →
    s.buf.c =
      (s.buf.g ^ m₁ * r₁ ^ s.buf.n % s.buf.n2) * (s.buf.g ^ m₂ * r₂ ^ s.buf.n % s.buf.n2) % s.buf.n2 →
    s.inputs = .host (.write 0x00C 4 0x00000002#32) :: .respond d :: .fsm :: .fsm :: rest →
    ∃ t, Sys2Proof.core.run 4 s = .next t ∧ t.status.done = true ∧ t.status.resultValid = true
      ∧ t.buf.m = (m₁ + m₂) % s.buf.n

/-- R721: an ABORT races the step that would complete the command, and both outcomes are runs of the model. -/
def Obligations.AbortRacesCompletion : Prop :=
  ∀ (s : State) (rest : List Event), s.fsm = .decMul → 1 ≤ s.buf.n →
    (s.inputs = .fsm :: .host (.write 0x00C 4 0x00000005#32) :: rest →
      ∃ t, Sys2Proof.core.run 2 s = .next t ∧ t.fsm = .idle ∧ t.status.done = true ∧ t.status.err = false
        ∧ t.status.errCode = .none ∧ t.buf.m = s.hid.lv * s.buf.u % s.buf.n)
    ∧ (s.inputs = .host (.write 0x00C 4 0x00000005#32) :: .fsm :: rest →
      ∃ t, Sys2Proof.core.run 2 s = .next t ∧ t.fsm = .idle ∧ t.status.done = false ∧ t.status.err = true
        ∧ t.status.errCode = .aborted ∧ t.buf = s.buf)

/-- R750: no access can read the prime factors or any other internal buffer or latch. A host access to the window, but
for a command, answers the same and does the same to everything else, whatever they hold. -/
def Obligations.HiddenStateHasNoAddress : Prop :=
  ∀ (s : State) (h : Hidden) (a : Access) (rest : List Event), s.inputs = .host a :: rest →
    (∀ v, a ≠ .write 0x00C 4 v) → nextInWindow s = true →
    ∃ t, step s = .next t ∧ t.hid = s.hid ∧ step { s with hid := h } = .next { t with hid := h }
end

