-- ==== Sys2Proof/Laws/Arith.lean ====
section
/-! SUPPORT. Bit length (R11), the bounds of the service's results (R14), and of L (R13). -/

namespace Sys2Proof.Machine

theorem lt_two_pow_bitLength (v : Nat) : v < 2 ^ bitLength v := by
  unfold bitLength
  split
  · subst v; decide
  · exact Nat.lt_log2_self

theorem bitLength_le_iff (v k : Nat) : bitLength v ≤ k ↔ v < 2 ^ k := by
  unfold bitLength
  split
  · subst v; simp
  · rename_i h
    rw [Nat.succ_le_iff, Nat.log2_lt h]

/-- A nonzero number has its top bit set. -/
theorem two_pow_le_of_bitLength {v k : Nat} (h : bitLength v = k + 1) : 2 ^ k ≤ v := by
  by_contra hlt
  have := (bitLength_le_iff v k).mpr (by omega)
  omega

theorem modexpLoop_lt (m fuel b e acc : Nat) (hacc : acc < m) : modexpLoop m fuel b e acc < m := by
  induction fuel generalizing b e acc with
  | zero => exact hacc
  | succ f ih =>
    apply ih
    split
    · exact Nat.mod_lt _ (by omega)
    · exact hacc

theorem modexp_lt (b e m : Nat) (hm : 1 ≤ m) : modexp b e m < m :=
  modexpLoop_lt m _ _ _ _ (Nat.mod_lt _ hm)

theorem modinvLoop_lt (m fuel r0 r1 t0 t1 : Nat) (h0 : t0 < m) (h1 : t1 < m) :
    modinvLoop m fuel r0 r1 t0 t1 < m := by
  induction fuel generalizing r0 r1 t0 t1 with
  | zero => exact h0
  | succ f ih =>
    unfold modinvLoop
    split
    · exact h0
    · exact ih _ _ _ _ h1 (Nat.mod_lt _ (by omega))

theorem modinv_lt (a m : Nat) (hm : 1 ≤ m) : modinv a m < m :=
  modinvLoop_lt m _ _ _ _ _ (by omega) (Nat.mod_lt _ hm)

theorem lDefined_iff (x n : Nat) : lDefined x n = true ↔ 1 ≤ x ∧ (x - 1) % n = 0 := by
  simp only [lDefined, Bool.and_eq_true, bne_iff_ne, beq_iff_eq]
  omega

/-- `L(x, n) < n` for `x` below `n * n` (R416, R520). -/
theorem lFun_lt (x n : Nat) (hn : 1 ≤ n) (hx : x < n * n) : lFun x n < n := by
  unfold lFun
  rw [Nat.div_lt_iff_lt_mul (by omega)]
  omega

/-- The service answers every request inside the domain of R14. -/
theorem serviceAnswer_defined (draw : Nat) (r : Request)
    (hexp : ∀ b e m, r = .modexp b e m → m ≠ 0)
    (hinv : ∀ a m, r = .modinv a m → m ≠ 0 ∧ Nat.gcd a m = 1) : ∃ v, serviceAnswer draw r = some v := by
  cases r with
  | primegen k c => exact ⟨_, rfl⟩
  | rand k => exact ⟨_, rfl⟩
  | gcd a b => exact ⟨_, rfl⟩
  | modexp b e m => exact ⟨_, if_neg (hexp b e m rfl)⟩
  | modinv a m =>
    obtain ⟨h0, h1⟩ := hinv a m rfl
    exact ⟨_, if_neg (by simp [h0, h1])⟩

end Sys2Proof.Machine
end

