-- ==== Sys2Proof/Laws/Operands.lean ====
section
/-! SUPPORT. The window's operands: the words of a buffer under a write (R203, R207), buffers by name (R126), and the
address map (R201). -/

namespace Sys2Proof.Machine

/-! The words of a buffer -/

/-- The bits of a number after word `i` was replaced: the new word's inside the word, the old number's elsewhere. -/
theorem setWord_testBit (w v i : Nat) (d : Word) (j : Nat) :
    (setWord w v i d).testBit j =
      if j < wordShift w i then v.testBit j
      else if j < wordShift w i + 32 then d.getLsbD (j - wordShift w i) else v.testBit j := by
  unfold setWord
  generalize wordShift w i = k
  have hlow : v % 2 ^ k < 2 ^ k := Nat.mod_lt _ (by positivity)
  rw [Nat.mul_comm, Nat.testBit_two_pow_mul_add _ hlow]
  by_cases h1 : j < k
  · simp [h1, Nat.testBit_mod_two_pow]
  · rw [if_neg h1, if_neg h1, Nat.mul_comm _ (2 ^ 32), Nat.testBit_two_pow_mul_add _ d.isLt]
    by_cases h2 : j < k + 32
    · rw [if_pos (by omega), if_pos h2]; rfl
    · rw [if_neg (by omega), if_neg h2, Nat.testBit_div_two_pow]
      congr 1; omega

theorem wordOf_getLsbD (w v i j : Nat) :
    (wordOf w v i).getLsbD j = (decide (j < 32) && v.testBit (wordShift w i + j)) := by
  simp only [wordOf, BitVec.getLsbD_ofNat, Nat.testBit_div_two_pow]
  rw [Nat.add_comm]

/-- A word read back after it was written is the word written. -/
@[simp] theorem wordOf_setWord_same (w v i : Nat) (d : Word) : wordOf w (setWord w v i d) i = d := by
  apply BitVec.eq_of_getLsbD_eq
  intro j hj
  rw [wordOf_getLsbD, setWord_testBit, if_neg (by omega), if_pos (by omega)]
  simp [hj]

/-- Writing one word leaves every other word of the buffer alone. -/
theorem wordOf_setWord_other (w v i k : Nat) (d : Word) (hi : i < w) (hk : k < w) (hne : k ≠ i) :
    wordOf w (setWord w v i d) k = wordOf w v k := by
  apply BitVec.eq_of_getLsbD_eq
  intro j hj
  have hsep : wordShift w k + j < wordShift w i ∨ wordShift w i + 32 ≤ wordShift w k + j := by
    unfold wordShift; omega
  rw [wordOf_getLsbD, wordOf_getLsbD, setWord_testBit]
  rcases hsep with h | h
  · rw [if_pos h]
  · rw [if_neg (by omega), if_neg (by omega)]

/-- A buffer still fits its words after one of them was written. -/
theorem setWord_lt (w v i : Nat) (d : Word) (hv : v < 2 ^ (32 * w)) (hi : i < w) :
    setWord w v i d < 2 ^ (32 * w) := by
  apply Nat.lt_pow_two_of_testBit
  intro j hj
  have hs : wordShift w i + 32 ≤ 32 * w := by unfold wordShift; omega
  rw [setWord_testBit, if_neg (by omega), if_neg (by omega)]
  exact Nat.testBit_lt_two_pow (lt_of_lt_of_le hv (Nat.pow_le_pow_right (by norm_num) hj))

/-- A number that fits `w` words is determined by them. -/
theorem eq_of_wordOf_eq (w a b : Nat) (ha : a < 2 ^ (32 * w)) (hb : b < 2 ^ (32 * w))
    (h : ∀ i, i < w → wordOf w a i = wordOf w b i) : a = b := by
  apply Nat.eq_of_testBit_eq
  intro j
  by_cases hj : j < 32 * w
  · have hbit := congrArg (fun x : Word => x.getLsbD (j % 32)) (h (w - 1 - j / 32) (by omega))
    have hpos : wordShift w (w - 1 - j / 32) + j % 32 = j := by unfold wordShift; omega
    simp only [wordOf_getLsbD, hpos] at hbit
    simpa [Nat.mod_lt] using hbit
  · have hle : (2 : Nat) ^ (32 * w) ≤ 2 ^ j := Nat.pow_le_pow_right (by norm_num) (by omega)
    rw [Nat.testBit_lt_two_pow (lt_of_lt_of_le ha hle), Nat.testBit_lt_two_pow (lt_of_lt_of_le hb hle)]

/-! Buffers by name -/

@[simp] theorem get_set_same (bs : Bufs) (b : Buf) (v : Nat) : (bs.set b v).get b = v := by cases b <;> rfl

theorem get_set_other (bs : Bufs) (b b' : Buf) (v : Nat) (h : b' ≠ b) : (bs.set b v).get b' = bs.get b' := by
  cases b <;> cases b' <;> first | rfl | exact absurd rfl h

/-! The address map -/

/-- A buffer fits its slot (R8: `W_N2 <= 256`). -/
theorem words_le {c : Build} (hc : c.Legal) (b : Buf) : b.words c ≤ 256 := by
  have h := hc.2.2.2.2.1
  cases b <;> simp only [Buf.words, Build.wN2, Build.wN] <;> omega

/-- Word `i` of a buffer stands at the offset R201 gives it. -/
theorem regionOf_bufOffset {c : Build} (hc : c.Legal) (b : Buf) (i : Nat) (hi : i < b.words c) :
    regionOf c (b.offset i) = .buf b i := by
  have hw := words_le hc b
  have hdiv : b.offset i / Config.slot = b.slotIndex := by
    unfold Buf.offset Config.slot; omega
  have hmod : b.offset i % Config.slot / 4 = i := by
    unfold Buf.offset Config.slot; omega
  have hslot : slotBuf b.slotIndex = some b := by cases b <;> rfl
  simp only [regionOf, hdiv, hmod, hslot, if_pos hi]

/-- Every control register stands at the offset R100 gives it. -/
theorem regionOf_regOffset (c : Build) (r : Reg) : regionOf c r.offset = .reg r := by cases r <;> rfl

theorem slotBuf_some {k : Nat} {b : Buf} (h : slotBuf k = some b) : k = b.slotIndex := by
  unfold slotBuf at h
  split at h <;> first | (cases h; rfl) | cases h

/-- What the map calls word `i` of a buffer is one of its words, and stands where R201 says. -/
theorem regionOf_eq_buf {c : Build} {off : Nat} {b : Buf} {i : Nat} (h : regionOf c off = .buf b i) :
    i < b.words c ∧ (off % 4 = 0 → off = b.offset i) := by
  unfold regionOf at h
  split at h
  · rename_i b' hb
    split at h
    · rename_i hi
      cases h
      refine ⟨hi, fun h4 => ?_⟩
      have hk := slotBuf_some hb
      unfold Buf.offset
      rw [← hk]
      unfold Config.slot
      omega
    · cases h
  · split at h <;> cases h

end Sys2Proof.Machine
end

