-- ==== Sys2Proof/Laws/State.lean ====
section
/-! SUPPORT. The shared operations, one lemma per field of the state: no later proof unfolds a record update. -/

namespace Sys2Proof.Machine

/-! `enter` (FSM state) -/

@[simp] theorem enter_status (f : FsmState) (s : State) : (enter f s).status = s.status := rfl
@[simp] theorem enter_regs (f : FsmState) (s : State) : (enter f s).regs = s.regs := rfl
@[simp] theorem enter_buf (f : FsmState) (s : State) : (enter f s).buf = s.buf := rfl
@[simp] theorem enter_hid (f : FsmState) (s : State) : (enter f s).hid = s.hid := rfl
@[simp] theorem enter_fsm (f : FsmState) (s : State) : (enter f s).fsm = f := rfl
@[simp] theorem enter_req (f : FsmState) (s : State) : (enter f s).req = requestFor f s := rfl
@[simp] theorem enter_inputs (f : FsmState) (s : State) : (enter f s).inputs = s.inputs := rfl
@[simp] theorem enter_bus (f : FsmState) (s : State) : (enter f s).bus = s.bus := rfl
@[simp] theorem enter_freeCtr (f : FsmState) (s : State) : (enter f s).freeCtr = s.freeCtr := rfl
@[simp] theorem enter_build (f : FsmState) (s : State) : (enter f s).build = s.build := rfl

/-! `raiseError` (R710) -/

@[simp] theorem raiseError_status (code : ErrCode) (s : State) :
    (raiseError code s).status = { s.status with err := true, done := false, errCode := code } := rfl
@[simp] theorem raiseError_regs (code : ErrCode) (s : State) :
    (raiseError code s).regs = { s.regs with irqStat := s.regs.irqStat ||| 0b10#2 } := rfl
@[simp] theorem raiseError_buf (code : ErrCode) (s : State) : (raiseError code s).buf = s.buf := rfl
@[simp] theorem raiseError_hid (code : ErrCode) (s : State) : (raiseError code s).hid = s.hid := rfl
@[simp] theorem raiseError_fsm (code : ErrCode) (s : State) : (raiseError code s).fsm = .idle := rfl
@[simp] theorem raiseError_req (code : ErrCode) (s : State) : (raiseError code s).req = none := rfl
@[simp] theorem raiseError_inputs (code : ErrCode) (s : State) : (raiseError code s).inputs = s.inputs := rfl
@[simp] theorem raiseError_bus (code : ErrCode) (s : State) : (raiseError code s).bus = s.bus := rfl
@[simp] theorem raiseError_freeCtr (code : ErrCode) (s : State) : (raiseError code s).freeCtr = s.freeCtr := rfl
@[simp] theorem raiseError_build (code : ErrCode) (s : State) : (raiseError code s).build = s.build := rfl

/-! `complete` (R711) -/

@[simp] theorem complete_status (s : State) :
    (complete s).status = { s.status with done := true, err := false, errCode := .none } := rfl
@[simp] theorem complete_regs (s : State) :
    (complete s).regs = { s.regs with irqStat := s.regs.irqStat ||| 0b01#2 } := rfl
@[simp] theorem complete_buf (s : State) : (complete s).buf = s.buf := rfl
@[simp] theorem complete_hid (s : State) : (complete s).hid = s.hid := rfl
@[simp] theorem complete_fsm (s : State) : (complete s).fsm = .idle := rfl
@[simp] theorem complete_req (s : State) : (complete s).req = none := rfl
@[simp] theorem complete_inputs (s : State) : (complete s).inputs = s.inputs := rfl
@[simp] theorem complete_bus (s : State) : (complete s).bus = s.bus := rfl
@[simp] theorem complete_freeCtr (s : State) : (complete s).freeCtr = s.freeCtr := rfl
@[simp] theorem complete_build (s : State) : (complete s).build = s.build := rfl

/-! `startRun` (R105) -/

@[simp] theorem startRun_status (s : State) :
    (startRun s).status = { s.status with done := false, err := false, errCode := .none } := rfl
@[simp] theorem startRun_regs (s : State) : (startRun s).regs = s.regs := rfl
@[simp] theorem startRun_buf (s : State) : (startRun s).buf = s.buf := rfl
@[simp] theorem startRun_hid (s : State) : (startRun s).hid = s.hid := rfl
@[simp] theorem startRun_fsm (s : State) : (startRun s).fsm = s.fsm := rfl
@[simp] theorem startRun_req (s : State) : (startRun s).req = s.req := rfl
@[simp] theorem startRun_inputs (s : State) : (startRun s).inputs = s.inputs := rfl
@[simp] theorem startRun_bus (s : State) : (startRun s).bus = s.bus := rfl
@[simp] theorem startRun_freeCtr (s : State) : (startRun s).freeCtr = s.freeCtr := rfl
@[simp] theorem startRun_build (s : State) : (startRun s).build = s.build := rfl

/-! `clearStatus` (R611) -/

@[simp] theorem clearStatus_status (s : State) :
    (clearStatus s).status = { s.status with done := false, err := false, ovr := false, errCode := .none } := rfl
@[simp] theorem clearStatus_regs (s : State) : (clearStatus s).regs = s.regs := rfl
@[simp] theorem clearStatus_buf (s : State) : (clearStatus s).buf = s.buf := rfl
@[simp] theorem clearStatus_hid (s : State) : (clearStatus s).hid = s.hid := rfl
@[simp] theorem clearStatus_fsm (s : State) : (clearStatus s).fsm = s.fsm := rfl
@[simp] theorem clearStatus_req (s : State) : (clearStatus s).req = s.req := rfl
@[simp] theorem clearStatus_inputs (s : State) : (clearStatus s).inputs = s.inputs := rfl
@[simp] theorem clearStatus_bus (s : State) : (clearStatus s).bus = s.bus := rfl
@[simp] theorem clearStatus_freeCtr (s : State) : (clearStatus s).freeCtr = s.freeCtr := rfl
@[simp] theorem clearStatus_build (s : State) : (clearStatus s).build = s.build := rfl

/-! `dropWrite` (R109) -/

@[simp] theorem dropWrite_status (s : State) : (dropWrite s).status = { s.status with ovr := true } := rfl
@[simp] theorem dropWrite_regs (s : State) : (dropWrite s).regs = s.regs := rfl
@[simp] theorem dropWrite_buf (s : State) : (dropWrite s).buf = s.buf := rfl
@[simp] theorem dropWrite_hid (s : State) : (dropWrite s).hid = s.hid := rfl
@[simp] theorem dropWrite_fsm (s : State) : (dropWrite s).fsm = s.fsm := rfl
@[simp] theorem dropWrite_req (s : State) : (dropWrite s).req = s.req := rfl
@[simp] theorem dropWrite_inputs (s : State) : (dropWrite s).inputs = s.inputs := rfl
@[simp] theorem dropWrite_bus (s : State) : (dropWrite s).bus = s.bus := rfl
@[simp] theorem dropWrite_freeCtr (s : State) : (dropWrite s).freeCtr = s.freeCtr := rfl
@[simp] theorem dropWrite_build (s : State) : (dropWrite s).build = s.build := rfl

/-! `countPDraw` (R124) -/

@[simp] theorem countPDraw_status (s : State) : (countPDraw s).status = s.status := rfl
@[simp] theorem countPDraw_regs (s : State) :
    (countPDraw s).regs = { s.regs with pdrawCnt := saturatingInc s.regs.pdrawCnt } := rfl
@[simp] theorem countPDraw_buf (s : State) : (countPDraw s).buf = s.buf := rfl
@[simp] theorem countPDraw_hid (s : State) : (countPDraw s).hid = s.hid := rfl
@[simp] theorem countPDraw_fsm (s : State) : (countPDraw s).fsm = s.fsm := rfl
@[simp] theorem countPDraw_req (s : State) : (countPDraw s).req = s.req := rfl
@[simp] theorem countPDraw_inputs (s : State) : (countPDraw s).inputs = s.inputs := rfl
@[simp] theorem countPDraw_bus (s : State) : (countPDraw s).bus = s.bus := rfl
@[simp] theorem countPDraw_freeCtr (s : State) : (countPDraw s).freeCtr = s.freeCtr := rfl
@[simp] theorem countPDraw_build (s : State) : (countPDraw s).build = s.build := rfl

/-! `countGDraw` (R125) -/

@[simp] theorem countGDraw_status (s : State) : (countGDraw s).status = s.status := rfl
@[simp] theorem countGDraw_regs (s : State) :
    (countGDraw s).regs = { s.regs with gdrawCnt := saturatingInc s.regs.gdrawCnt } := rfl
@[simp] theorem countGDraw_buf (s : State) : (countGDraw s).buf = s.buf := rfl
@[simp] theorem countGDraw_hid (s : State) : (countGDraw s).hid = s.hid := rfl
@[simp] theorem countGDraw_fsm (s : State) : (countGDraw s).fsm = s.fsm := rfl
@[simp] theorem countGDraw_req (s : State) : (countGDraw s).req = s.req := rfl
@[simp] theorem countGDraw_inputs (s : State) : (countGDraw s).inputs = s.inputs := rfl
@[simp] theorem countGDraw_bus (s : State) : (countGDraw s).bus = s.bus := rfl
@[simp] theorem countGDraw_freeCtr (s : State) : (countGDraw s).freeCtr = s.freeCtr := rfl
@[simp] theorem countGDraw_build (s : State) : (countGDraw s).build = s.build := rfl

/-! `setBlockSizes` (R119) -/

@[simp] theorem setBlockSizes_status (s : State) : (setBlockSizes s).status = s.status := rfl
@[simp] theorem setBlockSizes_regs (s : State) :
    (setBlockSizes s).regs =
      { s.regs with
        nbits := BitVec.ofNat 32 (bitLength s.buf.n)
        ptbs := BitVec.ofNat 32 (ptbsOf (bitLength s.buf.n))
        ctbs := BitVec.ofNat 32 (ctbsOf (bitLength s.buf.n)) } :=
  rfl
@[simp] theorem setBlockSizes_buf (s : State) : (setBlockSizes s).buf = s.buf := rfl
@[simp] theorem setBlockSizes_hid (s : State) : (setBlockSizes s).hid = s.hid := rfl
@[simp] theorem setBlockSizes_fsm (s : State) : (setBlockSizes s).fsm = s.fsm := rfl
@[simp] theorem setBlockSizes_req (s : State) : (setBlockSizes s).req = s.req := rfl
@[simp] theorem setBlockSizes_inputs (s : State) : (setBlockSizes s).inputs = s.inputs := rfl
@[simp] theorem setBlockSizes_bus (s : State) : (setBlockSizes s).bus = s.bus := rfl
@[simp] theorem setBlockSizes_freeCtr (s : State) : (setBlockSizes s).freeCtr = s.freeCtr := rfl
@[simp] theorem setBlockSizes_build (s : State) : (setBlockSizes s).build = s.build := rfl

/-! `clearBlockSizes` (R119) -/

@[simp] theorem clearBlockSizes_status (s : State) : (clearBlockSizes s).status = s.status := rfl
@[simp] theorem clearBlockSizes_regs (s : State) :
    (clearBlockSizes s).regs = { s.regs with nbits := 0, ptbs := 0, ctbs := 0 } := rfl
@[simp] theorem clearBlockSizes_buf (s : State) : (clearBlockSizes s).buf = s.buf := rfl
@[simp] theorem clearBlockSizes_hid (s : State) : (clearBlockSizes s).hid = s.hid := rfl
@[simp] theorem clearBlockSizes_fsm (s : State) : (clearBlockSizes s).fsm = s.fsm := rfl
@[simp] theorem clearBlockSizes_req (s : State) : (clearBlockSizes s).req = s.req := rfl
@[simp] theorem clearBlockSizes_inputs (s : State) : (clearBlockSizes s).inputs = s.inputs := rfl
@[simp] theorem clearBlockSizes_bus (s : State) : (clearBlockSizes s).bus = s.bus := rfl
@[simp] theorem clearBlockSizes_freeCtr (s : State) : (clearBlockSizes s).freeCtr = s.freeCtr := rfl
@[simp] theorem clearBlockSizes_build (s : State) : (clearBlockSizes s).build = s.build := rfl

/-! `eraseAll` (R613) -/

@[simp] theorem eraseAll_status (s : State) : (eraseAll s).status = { Status.reset with ovr := s.status.ovr } := rfl
@[simp] theorem eraseAll_regs (s : State) :
    (eraseAll s).regs =
      { s.regs with keybitsEff := 0, nbits := 0, ptbs := 0, ctbs := 0, pdrawCnt := 0, gdrawCnt := 0 } :=
  rfl
@[simp] theorem eraseAll_buf (s : State) : (eraseAll s).buf = .zero := rfl
@[simp] theorem eraseAll_hid (s : State) : (eraseAll s).hid = .zero := rfl
@[simp] theorem eraseAll_fsm (s : State) : (eraseAll s).fsm = s.fsm := rfl
@[simp] theorem eraseAll_req (s : State) : (eraseAll s).req = s.req := rfl
@[simp] theorem eraseAll_inputs (s : State) : (eraseAll s).inputs = s.inputs := rfl
@[simp] theorem eraseAll_bus (s : State) : (eraseAll s).bus = s.bus := rfl
@[simp] theorem eraseAll_freeCtr (s : State) : (eraseAll s).freeCtr = s.freeCtr := rfl
@[simp] theorem eraseAll_build (s : State) : (eraseAll s).build = s.build := rfl

/-! `startDecrypt` (R502) -/

@[simp] theorem startDecrypt_status (f : FsmState) (s : State) :
    (startDecrypt f s).status =
      { s.status with done := false, err := false, errCode := .none, resultValid := false, movf := false } :=
  rfl
@[simp] theorem startDecrypt_regs (f : FsmState) (s : State) : (startDecrypt f s).regs = s.regs := rfl
@[simp] theorem startDecrypt_buf (f : FsmState) (s : State) : (startDecrypt f s).buf = s.buf := rfl
@[simp] theorem startDecrypt_hid (f : FsmState) (s : State) : (startDecrypt f s).hid = s.hid := rfl
@[simp] theorem startDecrypt_fsm (f : FsmState) (s : State) : (startDecrypt f s).fsm = f := rfl
@[simp] theorem startDecrypt_req (f : FsmState) (s : State) : (startDecrypt f s).req = requestFor f s := rfl
@[simp] theorem startDecrypt_inputs (f : FsmState) (s : State) : (startDecrypt f s).inputs = s.inputs := rfl
@[simp] theorem startDecrypt_bus (f : FsmState) (s : State) : (startDecrypt f s).bus = s.bus := rfl
@[simp] theorem startDecrypt_freeCtr (f : FsmState) (s : State) : (startDecrypt f s).freeCtr = s.freeCtr := rfl
@[simp] theorem startDecrypt_build (f : FsmState) (s : State) : (startDecrypt f s).build = s.build := rfl

/-! `resetBlock` (R800) -/

@[simp] theorem resetBlock_status (s : State) : (resetBlock s).status = .reset := rfl
@[simp] theorem resetBlock_regs (s : State) : (resetBlock s).regs = .reset s.build := rfl
@[simp] theorem resetBlock_buf (s : State) : (resetBlock s).buf = .zero := rfl
@[simp] theorem resetBlock_hid (s : State) : (resetBlock s).hid = .zero := rfl
@[simp] theorem resetBlock_fsm (s : State) : (resetBlock s).fsm = .idle := rfl
@[simp] theorem resetBlock_req (s : State) : (resetBlock s).req = none := rfl
@[simp] theorem resetBlock_inputs (s : State) : (resetBlock s).inputs = s.inputs := rfl
@[simp] theorem resetBlock_bus (s : State) : (resetBlock s).bus = .none := rfl
@[simp] theorem resetBlock_freeCtr (s : State) : (resetBlock s).freeCtr = s.freeCtr := rfl
@[simp] theorem resetBlock_build (s : State) : (resetBlock s).build = s.build := rfl

/-! `keySideEffects` (R127) and the BUSY view (R106) -/

@[simp] theorem keySideEffects_buf (b : Buf) (s : State) : (keySideEffects b s).buf = s.buf := by
  cases b <;> rfl

@[simp] theorem keySideEffects_hid (b : Buf) (s : State) : (keySideEffects b s).hid = s.hid := by
  cases b <;> rfl

@[simp] theorem keySideEffects_fsm (b : Buf) (s : State) : (keySideEffects b s).fsm = s.fsm := by
  cases b <;> rfl

@[simp] theorem keySideEffects_req (b : Buf) (s : State) : (keySideEffects b s).req = s.req := by
  cases b <;> rfl

@[simp] theorem keySideEffects_inputs (b : Buf) (s : State) : (keySideEffects b s).inputs = s.inputs := by
  cases b <;> rfl

@[simp] theorem keySideEffects_bus (b : Buf) (s : State) : (keySideEffects b s).bus = s.bus := by
  cases b <;> rfl

@[simp] theorem keySideEffects_freeCtr (b : Buf) (s : State) : (keySideEffects b s).freeCtr = s.freeCtr := by
  cases b <;> rfl
@[simp] theorem keySideEffects_build (b : Buf) (s : State) : (keySideEffects b s).build = s.build := by
  cases b <;> rfl

theorem busy_iff (s : State) : s.busy = true ↔ s.fsm ≠ .idle := by simp [State.busy]

theorem not_busy_iff (s : State) : s.busy = false ↔ s.fsm = .idle := by simp [State.busy]

theorem busy_of_fsm_eq {s t : State} (h : t.fsm = s.fsm) : t.busy = s.busy := by simp [State.busy, h]

end Sys2Proof.Machine
end

