-- ==== Sys2Proof/Laws/Ops.lean ====
section
/-! SUPPORT. What each shared operation can do, said once: the BUSY check (R310), the domain check (R12 to R14), the
request of a state (R140), and the effect of one host access (R202, R205, R207). -/

namespace Sys2Proof.Machine

/-! The BUSY check and the domain check -/

theorem ifIdle_idle {s : State} (k : State → Result) (h : s.busy = false) : ifIdle s k = k s := by
  simp [ifIdle, h]

theorem ifIdle_busy {s : State} (k : State → Result) (h : s.busy = true) : ifIdle s k = .next (dropWrite s) := by
  simp [ifIdle, h]

/-- Everything the BUSY check can do. -/
theorem ifIdle_next {s t : State} {k : State → Result} (h : ifIdle s k = .next t) :
    (s.busy = true ∧ t = dropWrite s) ∨ (s.busy = false ∧ k s = .next t) := by
  cases hb : s.busy with
  | true => rw [ifIdle_busy k hb] at h; cases h; exact .inl ⟨rfl, rfl⟩
  | false => rw [ifIdle_idle k hb] at h; exact .inr ⟨rfl, h⟩

/-- Everything the domain check can do. -/
theorem whenDefined_next {p : Bool} {r : Result} {t : State} (h : whenDefined p r = .next t) :
    p = true ∧ r = .next t := by
  cases p with
  | true => exact ⟨rfl, h⟩
  | false => cases h

/-- A state's request depends on the buffers, internal buffers and latches only (R140). -/
theorem requestFor_congr {s t : State} (f : FsmState) (hb : t.buf = s.buf) (hh : t.hid = s.hid) :
    requestFor f t = requestFor f s := by
  unfold requestFor; rw [hb, hh]

/-- A service state has a request, and no other state has one (R131, R140). -/
theorem requestFor_isSome (f : FsmState) (s : State) : (requestFor f s).isSome = (f.kind == .service) := by
  cases f <;> rfl

/-! Counters -/

/-- A saturated counter stays, any other counts up by one (R124, R125). -/
theorem saturatingInc_toNat (c : Word) : (saturatingInc c).toNat = min (c.toNat + 1) 0xFFFFFFFF := by
  unfold saturatingInc
  have hc := c.isLt
  split
  · rename_i h; subst h; decide
  · rename_i h
    have hne : c.toNat ≠ 4294967295 := fun e => h (BitVec.eq_of_toNat_eq (by rw [e]; decide))
    rw [BitVec.toNat_add, Nat.mod_eq_of_lt (by simp; omega)]
    simp; omega

/-! One host access -/

/-- What a host access does to the block once it is performed (R207, R310): one case for each kind of location. -/
inductive HostEffect (s : State) : State → Prop
  /-- A read, a bus error, or a write that is ignored (R202, R205, R206, R208). -/
  | nothing : HostEffect s s
  /-- A write dropped because BUSY is 1 (R210). -/
  | dropped (busy : s.busy = true) : HostEffect s (dropWrite s)
  | keybits (idle : s.busy = false) (v : Word) : HostEffect s { s with regs := { s.regs with keybits := v } }
  | certainty (idle : s.busy = false) (v : Word) : HostEffect s { s with regs := { s.regs with certainty := v } }
  | irqEn (v : BitVec 2) : HostEffect s { s with regs := { s.regs with irqEn := v } }
  | irqStat (v : BitVec 2) : HostEffect s { s with regs := { s.regs with irqStat := s.regs.irqStat &&& ~~~v } }
  | buffer (idle : s.busy = false) (b : Buf) (i : Nat) (v : Word) (writable : b.hostWritable = true)
      (inside : i < b.words s.build) : HostEffect s (bufWrite b i v s)
  | command (i : Instr) (t : State) (run : exec i s = .next t) : HostEffect s t
  | illegal (idle : s.busy = false) : HostEffect s (raiseError .illegalCmd s)

theorem SameBlock.refl (s : State) : SameBlock s s := ⟨rfl, rfl, rfl, rfl, rfl, rfl, rfl⟩

theorem SameBlock.of_bus (s : State) (b : BusResp) : SameBlock s { s with bus := b } :=
  ⟨rfl, rfl, rfl, rfl, rfl, rfl, rfl⟩

theorem SameBlock.of_inputs (s : State) (es : List Event) : SameBlock s { s with inputs := es } :=
  ⟨rfl, rfl, rfl, rfl, rfl, rfl, rfl⟩

theorem SameBlock.of_freeCtr (s : State) (k : Nat) : SameBlock s { s with freeCtr := k } :=
  ⟨rfl, rfl, rfl, rfl, rfl, rfl, rfl⟩

theorem SameBlock.busy_eq {s t : State} (h : SameBlock s t) : t.busy = s.busy := busy_of_fsm_eq h.2.2.2.2.1

/-! What stands at an offset decides what a read or a write of it does -/

theorem busRead_reg {off : Nat} {r : Reg} {s : State} (h : regionOf s.build off = .reg r) :
    busRead off s = { s with bus := .readData (regWord s r) } := by
  unfold busRead; rw [h]

theorem busRead_buf {off i : Nat} {b : Buf} {s : State} (h : regionOf s.build off = .buf b i) :
    busRead off s =
      if s.busy then { s with bus := .readData (Config.freeReadWord s.freeCtr), freeCtr := s.freeCtr + 1 }
      else { s with bus := .readData (bufWord s b i) } := by
  unfold busRead; rw [h]

theorem busRead_reserved {off : Nat} {s : State} (h : regionOf s.build off = .reserved) :
    busRead off s = { s with bus := .readData 0 } := by
  unfold busRead; rw [h]

theorem busWrite_reg {off : Nat} {v : Word} {r : Reg} {s : State} (h : regionOf s.build off = .reg r) :
    busWrite off v s = regWrite r v s := by
  unfold busWrite; rw [h]

theorem busWrite_buf {off i : Nat} {v : Word} {b : Buf} {s : State} (h : regionOf s.build off = .buf b i) :
    busWrite off v s = if b.hostWritable then ifIdle s (fun s => .next (bufWrite b i v s)) else .next s := by
  unfold busWrite; rw [h]

theorem busWrite_reserved {off : Nat} {v : Word} {s : State} (h : regionOf s.build off = .reserved) :
    busWrite off v s = .next s := by
  unfold busWrite; rw [h]

/-- Everything a write to CMD can do (R310). -/
theorem cmdWrite_effect {v : Word} {s t : State} (h : cmdWrite v s = .next t) : HostEffect s t := by
  unfold cmdWrite at h
  split at h
  · exact .command _ _ h
  · rcases ifIdle_next h with ⟨hb, rfl⟩ | ⟨hi, h⟩
    · exact .dropped hb
    · cases h; exact .illegal hi

/-- Everything a write to a control register can do (R207). -/
theorem regWrite_effect {r : Reg} {v : Word} {s t : State} (h : regWrite r v s = .next t) : HostEffect s t := by
  cases r with
  | cmd => exact cmdWrite_effect h
  | keybits =>
    simp only [regWrite] at h
    rcases ifIdle_next h with ⟨hb, rfl⟩ | ⟨hi, h⟩
    · exact .dropped hb
    · cases h; exact .keybits hi v
  | certainty =>
    simp only [regWrite] at h
    rcases ifIdle_next h with ⟨hb, rfl⟩ | ⟨hi, h⟩
    · exact .dropped hb
    · cases h; exact .certainty hi v
  | irqEn => cases h; exact .irqEn _
  | irqStat => cases h; exact .irqStat _
  | _ => cases h; exact .nothing

/-- Everything a legal write can do (R207). -/
theorem busWrite_effect {off : Nat} {v : Word} {s t : State} (h : busWrite off v s = .next t) : HostEffect s t := by
  unfold busWrite at h
  split at h
  · exact regWrite_effect h
  · rename_i b i hreg
    split at h
    · rename_i hw
      rcases ifIdle_next h with ⟨hb, rfl⟩ | ⟨hi, h⟩
      · exact .dropped hb
      · cases h; exact .buffer hi b i v hw (regionOf_eq_buf hreg).1
    · cases h; exact .nothing
  · cases h; exact .nothing

/-- A read changes nothing of the block (R205, R212). -/
theorem busRead_sameBlock (off : Nat) (s : State) : SameBlock s (busRead off s) := by
  unfold busRead
  split
  · exact ⟨rfl, rfl, rfl, rfl, rfl, rfl, rfl⟩
  · split <;> exact ⟨rfl, rfl, rfl, rfl, rfl, rfl, rfl⟩
  · exact ⟨rfl, rfl, rfl, rfl, rfl, rfl, rfl⟩

/-- Everything a host access can do: after the bus response is noted, one of the effects above. -/
theorem hostAccess_effect {a : Access} {s t : State} (h : hostAccess a s = .next t) :
    ∃ s₁, SameBlock s s₁ ∧ HostEffect s₁ t := by
  unfold hostAccess at h
  split at h
  · split at h
    · cases h
    · split at h
      · cases h; exact ⟨_, busRead_sameBlock _ s, .nothing⟩
      · cases h; exact ⟨_, .of_bus s _, .nothing⟩
  · split at h
    · cases h
    · split at h
      · exact ⟨_, .of_bus s _, busWrite_effect h⟩
      · cases h; exact ⟨_, .of_bus s _, .nothing⟩

end Sys2Proof.Machine
end

