-- ==== Sys2Proof/Laws/Exec.lean ====
section
/-! SUPPORT. What a command, an internal step and a response step can do, said once each as a list of named cases
(R310, R131). -/

namespace Sys2Proof.Machine

/-- The state KEYGEN acceptance leaves (R400). -/
abbrev keygenAccepted (s : State) : State :=
  enter .kgClamp (clearBlockSizes
    { s with status :=
      { s.status with
        done := false, err := false, errCode := .none, keyPub := false, keyPriv := false, resultValid := false,
        clamped := false, movf := false } })

/-- The state LOADPRIV leaves when N is usable (R500). -/
abbrev loadprivCommitted (s : State) : State :=
  let s := setBlockSizes { startRun s with buf := { s.buf with n2 := s.buf.n * s.buf.n } }
  complete { s with status := { s.status with keyPriv := true, resultValid := false } }

/-- What a command does while no command runs. -/
inductive Accepted (s : State) : Instr → State → Prop
  | nop : Accepted s .nop s
  | abort : Accepted s .abort s
  | clrstat : Accepted s .clrstat (clearStatus s)
  | zeroize : Accepted s .zeroize (complete (eraseAll s))
  | keygen : Accepted s .keygen (keygenAccepted s)
  | decNoKey (key : s.status.keyPriv = false) : Accepted s .dec (raiseError .invalidKey s)
  | dec (key : s.status.keyPriv = true) : Accepted s .dec (startDecrypt .decExp s)
  | decxNoKey (key : s.status.keyPriv = false) : Accepted s .decx (raiseError .invalidKey s)
  | decxRange (key : s.status.keyPriv = true) (range : s.buf.n2 ≤ s.buf.x) : Accepted s .decx (raiseError .xRange s)
  | decx (key : s.status.keyPriv = true) (range : s.buf.x < s.buf.n2) : Accepted s .decx (startDecrypt .decL s)
  | loadprivRange (range : s.buf.n < 2 ∨ s.build.kbMax < bitLength s.buf.n) :
      Accepted s .loadpriv (raiseError .keyRange s)
  | loadpriv (low : 2 ≤ s.buf.n) (high : bitLength s.buf.n ≤ s.build.kbMax) :
      Accepted s .loadpriv (loadprivCommitted s)

/-- A meaning under the BUSY check: dropped, or what it does in IDLE. -/
theorem ifIdle_accepted {i : Instr} {s t : State} {k : State → Result} (hne : i ≠ .abort)
    (hk : s.busy = false → k s = .next t → Accepted s i t) (h : ifIdle s k = .next t) :
    (s.busy = true ∧ i ≠ .abort ∧ t = dropWrite s) ∨ (s.busy = true ∧ i = .abort ∧ t = raiseError .aborted s)
      ∨ (s.busy = false ∧ Accepted s i t) := by
  rcases ifIdle_next h with ⟨hb, rfl⟩ | ⟨hi, h⟩
  · exact .inl ⟨hb, hne, rfl⟩
  · exact .inr (.inr ⟨hi, hk hi h⟩)

/-- Everything a command can do. -/
theorem exec_next {i : Instr} {s t : State} (h : exec i s = .next t) :
    (s.busy = true ∧ i ≠ .abort ∧ t = dropWrite s) ∨ (s.busy = true ∧ i = .abort ∧ t = raiseError .aborted s)
      ∨ (s.busy = false ∧ Accepted s i t) := by
  cases i with
  | abort =>
    dsimp only [exec, execAbort] at h
    split at h
    · rename_i hb; cases h; exact .inr (.inl ⟨hb, rfl, rfl⟩)
    · rename_i hb; cases h; exact .inr (.inr ⟨by simpa using hb, .abort⟩)
  | nop =>
    dsimp only [exec, execNop] at h
    exact ifIdle_accepted (by decide) (fun _ h => by cases h; exact .nop) h
  | clrstat =>
    dsimp only [exec, execClrstat] at h
    exact ifIdle_accepted (by decide) (fun _ h => by cases h; exact .clrstat) h
  | zeroize =>
    dsimp only [exec, execZeroize] at h
    exact ifIdle_accepted (by decide) (fun _ h => by cases h; exact .zeroize) h
  | keygen =>
    dsimp only [exec, execKeygen] at h
    exact ifIdle_accepted (by decide) (fun _ h => by cases h; exact .keygen) h
  | dec =>
    dsimp only [exec, execDec] at h
    refine ifIdle_accepted (by decide) (fun _ h => ?_) h
    split at h
    · rename_i hk; cases h; exact .decNoKey hk
    · rename_i hk; cases h; exact .dec (by simpa using hk)
  | decx =>
    dsimp only [exec, execDecx] at h
    refine ifIdle_accepted (by decide) (fun _ h => ?_) h
    split at h
    · rename_i hk; cases h; exact .decxNoKey hk
    · rename_i hk
      split at h
      · rename_i hx; cases h; exact .decxRange (by simpa using hk) hx
      · rename_i hx; cases h; exact .decx (by simpa using hk) (by omega)
  | loadpriv =>
    dsimp only [exec, execLoadpriv] at h
    refine ifIdle_accepted (by decide) (fun _ h => ?_) h
    split at h
    · rename_i hn; cases h; exact .loadprivRange hn
    · rename_i hn; cases h; exact .loadpriv (by omega) (by omega)

/-- What the FSM's turn does (R131): nothing outside the internal states, and one of these in them. -/
inductive InternalStep (s : State) : State → Prop
  | none (resting : s.fsm.kind ≠ .internal) : InternalStep s s
  | kgClamp (at_ : s.fsm = .kgClamp) :
      InternalStep s (enter .kgPgen
        { s with
          status := { s.status with clamped := !keySizeInRange s.build s.regs.keybits }
          regs := { s.regs with keybitsEff := effectiveKeySize s.build s.regs.keybits, pdrawCnt := 0, gdrawCnt := 0 }
          hid := { s.hid with khalf := effectiveKeySize s.build s.regs.keybits / 2, cert := s.regs.certainty } })
  | kgN (at_ : s.fsm = .kgN) :
      InternalStep s (enter .kgLgcd
        { s with buf := { s.buf with n := s.hid.p * s.hid.q, n2 := (s.hid.p * s.hid.q) * (s.hid.p * s.hid.q) } })
  | kgGl (at_ : s.fsm = .kgGl) (low : 1 ≤ s.buf.n) (exact_ : lDefined s.buf.x s.buf.n = true) :
      InternalStep s (enter .kgGlgcd { s with hid := { s.hid with lv := lFun s.buf.x s.buf.n } })
  | kgGlError (at_ : s.fsm = .kgGl) (low : 1 ≤ s.buf.n) (inexact : lDefined s.buf.x s.buf.n = false) :
      InternalStep s (raiseError .kgNonexact s)
  | kgDone (at_ : s.fsm = .kgDone) :
      InternalStep s (complete
        { setBlockSizes s with status := { s.status with keyPub := true, keyPriv := true } })
  | decL (at_ : s.fsm = .decL) (low : 1 ≤ s.buf.n) (exact_ : lDefined s.buf.x s.buf.n = true) :
      InternalStep s (enter .decMul { s with hid := { s.hid with lv := lFun s.buf.x s.buf.n } })
  | decLError (at_ : s.fsm = .decL) (low : 1 ≤ s.buf.n) (inexact : lDefined s.buf.x s.buf.n = false) :
      InternalStep s (raiseError .decNonexact s)
  | decMul (at_ : s.fsm = .decMul) (low : 1 ≤ s.buf.n) :
      InternalStep s (complete
        { s with
          buf := { s.buf with m := s.hid.lv * s.buf.u % s.buf.n }
          status :=
            { s.status with
              movf := movfOf (s.hid.lv * s.buf.u % s.buf.n) s.regs.ptbs
              resultValid := true } })

/-- Everything the FSM's turn can do. -/
theorem fsmStep_next {s t : State} (h : fsmStep s = .next t) : InternalStep s t := by
  unfold fsmStep at h
  split at h <;> rename_i hf
  case h_2 => cases h; exact .kgClamp hf
  case h_5 => cases h; exact .kgN hf
  case h_10 =>
    obtain ⟨hn, h⟩ := whenDefined_next h
    split at h
    · rename_i hl; cases h; exact .kgGl hf (by simpa using hn) hl
    · rename_i hl; cases h; exact .kgGlError hf (by simpa using hn) (by simpa using hl)
  case h_13 => cases h; exact .kgDone hf
  case h_15 =>
    obtain ⟨hn, h⟩ := whenDefined_next h
    split at h
    · rename_i hl; cases h; exact .decL hf (by simpa using hn) hl
    · rename_i hl; cases h; exact .decLError hf (by simpa using hn) (by simpa using hl)
  case h_16 =>
    obtain ⟨hn, h⟩ := whenDefined_next h
    cases h; exact .decMul hf (by simpa using hn)
  all_goals cases h; exact .none (by simp [hf, FsmState.kind])

/-- What the delivery of the service's answer `v` does (R131, R411 to R420, R510). -/
inductive ResponseStep (v : Nat) (s : State) : State → Prop
  | none (resting : s.fsm.kind ≠ .service) : ResponseStep v s s
  | kgPgenError (at_ : s.fsm = .kgPgen) (bad : bitLength v ≠ s.hid.khalf.toNat) :
      ResponseStep v s (raiseError .extContract (countPDraw s))
  | kgPgen (at_ : s.fsm = .kgPgen) (good : bitLength v = s.hid.khalf.toNat) :
      ResponseStep v s (enter .kgQgen { countPDraw s with hid := { s.hid with p := v } })
  | kgQgenError (at_ : s.fsm = .kgQgen) (bad : bitLength v ≠ s.hid.khalf.toNat) :
      ResponseStep v s (raiseError .extContract (countPDraw s))
  | kgQgenAgain (at_ : s.fsm = .kgQgen) (good : bitLength v = s.hid.khalf.toNat) (same : v = s.hid.p) :
      ResponseStep v s (enter .kgQgen { countPDraw s with hid := { s.hid with q := v } })
  | kgQgen (at_ : s.fsm = .kgQgen) (good : bitLength v = s.hid.khalf.toNat) (differ : v ≠ s.hid.p) :
      ResponseStep v s (enter .kgN { countPDraw s with hid := { s.hid with q := v } })
  | kgLgcd (at_ : s.fsm = .kgLgcd) (lowP : 1 ≤ s.hid.p) (lowQ : 1 ≤ s.hid.q) (low : 1 ≤ v) :
      ResponseStep v s (enter .kgGdraw
        { s with
          hid := { s.hid with t := v }
          buf := { s.buf with lambda := (s.hid.p - 1) * (s.hid.q - 1) / v } })
  | kgGdrawError (at_ : s.fsm = .kgGdraw) (bad : 2 ^ bitLength s.buf.n2 ≤ v) :
      ResponseStep v s (raiseError .extContract (countGDraw s))
  | kgGdrawAgain (at_ : s.fsm = .kgGdraw) (good : v < 2 ^ bitLength s.buf.n2) (high : s.buf.n2 ≤ v) :
      ResponseStep v s (enter .kgGdraw { countGDraw s with buf := { s.buf with g := v } })
  | kgGdraw (at_ : s.fsm = .kgGdraw) (good : v < 2 ^ bitLength s.buf.n2) (inside : v < s.buf.n2) :
      ResponseStep v s (enter .kgGcop { countGDraw s with buf := { s.buf with g := v } })
  | kgGcopAgain (at_ : s.fsm = .kgGcop) (bad : v ≠ 1) :
      ResponseStep v s (enter .kgGdraw { s with hid := { s.hid with t := v } })
  | kgGcop (at_ : s.fsm = .kgGcop) (good : v = 1) :
      ResponseStep v s (enter .kgGexp { s with hid := { s.hid with t := v } })
  | kgGexp (at_ : s.fsm = .kgGexp) : ResponseStep v s (enter .kgGl { s with buf := { s.buf with x := v } })
  | kgGlgcdAgain (at_ : s.fsm = .kgGlgcd) (bad : v ≠ 1) :
      ResponseStep v s (enter .kgGdraw { s with hid := { s.hid with t := v } })
  | kgGlgcd (at_ : s.fsm = .kgGlgcd) (good : v = 1) :
      ResponseStep v s (enter .kgU { s with hid := { s.hid with t := v } })
  | kgU (at_ : s.fsm = .kgU) : ResponseStep v s (enter .kgDone { s with buf := { s.buf with u := v } })
  | decExp (at_ : s.fsm = .decExp) : ResponseStep v s (enter .decL { s with buf := { s.buf with x := v } })

/-- Everything the delivery of an answer can do. -/
theorem deliver_next {v : Nat} {s t : State} (h : deliver v s = .next t) : ResponseStep v s t := by
  unfold deliver at h
  split at h <;> rename_i hf
  case h_3 =>
    dsimp only [kgPgenResp] at h
    split at h <;> rename_i hb <;> cases h
    · exact .kgPgenError hf hb
    · exact .kgPgen hf (not_not.mp hb)
  case h_4 =>
    dsimp only [kgQgenResp] at h
    split at h <;> rename_i hb <;> cases h
    · exact .kgQgenError hf hb
    · by_cases hq : v = (countPDraw s).hid.p
      · rw [if_pos hq]; exact .kgQgenAgain hf (not_not.mp hb) hq
      · rw [if_neg hq]; exact .kgQgen hf (not_not.mp hb) hq
  case h_6 =>
    obtain ⟨hd, h⟩ := whenDefined_next h
    simp only [Bool.and_eq_true, decide_eq_true_eq] at hd
    cases h; exact .kgLgcd hf hd.1.1 hd.1.2 hd.2
  case h_7 =>
    dsimp only [kgGdrawResp] at h
    split at h <;> rename_i hb <;> cases h
    · exact .kgGdrawError hf hb
    · by_cases hg : (countGDraw s).buf.n2 ≤ v
      · rw [if_pos hg]; exact .kgGdrawAgain hf (not_le.mp hb) hg
      · rw [if_neg hg]; exact .kgGdraw hf (not_le.mp hb) (not_le.mp hg)
  case h_8 =>
    dsimp only [kgGcopResp] at h
    cases h
    by_cases hv : v = 1
    · rw [if_neg (not_not.mpr hv)]; exact .kgGcop hf hv
    · rw [if_pos hv]; exact .kgGcopAgain hf hv
  case h_9 => cases h; exact .kgGexp hf
  case h_11 =>
    dsimp only [kgGlgcdResp] at h
    cases h
    by_cases hv : v = 1
    · rw [if_neg (not_not.mpr hv)]; exact .kgGlgcd hf hv
    · rw [if_pos hv]; exact .kgGlgcdAgain hf hv
  case h_12 => cases h; exact .kgU hf
  case h_14 => cases h; exact .decExp hf
  all_goals cases h; exact .none (by simp [hf, FsmState.kind])

end Sys2Proof.Machine
end

