-- ==== Sys2Proof/Laws/PerInstr.lean ====
section
/-! SUPPORT. Statements about every command, one lemma per constructor. -/

namespace Sys2Proof.Laws.EncodeDecode

/-- A well-formed command is the one the decoder reads from its command word, and that word is well formed
(R302, R303). -/
def Statement (i : Instr) : Prop :=
  i.wellFormed = true → decode (encode i) = .ok i ∧ wordWellFormed (encode i) = true

theorem nop : Statement .nop := fun _ => ⟨rfl, rfl⟩
theorem keygen : Statement .keygen := fun _ => ⟨rfl, rfl⟩
theorem dec : Statement .dec := fun _ => ⟨rfl, rfl⟩
theorem decx : Statement .decx := fun _ => ⟨rfl, rfl⟩
theorem loadpriv : Statement .loadpriv := fun _ => ⟨rfl, rfl⟩
theorem abort : Statement .abort := fun _ => ⟨rfl, rfl⟩
theorem clrstat : Statement .clrstat := fun _ => ⟨rfl, rfl⟩
theorem zeroize : Statement .zeroize := fun _ => ⟨rfl, rfl⟩

end Sys2Proof.Laws.EncodeDecode
end

