-- ==== Sys2Proof/Laws/Step.lean ====
section
/-! SUPPORT. What one step can do (R16), and the induction over steps, packaged once. -/

namespace Sys2Proof.Machine

theorem step_event {s : State} {e : Event} {rest : List Event} (h : s.inputs = e :: rest) :
    step s = perform e { s with inputs := rest } := by
  unfold step; rw [h]

theorem step_silent {s : State} (h : s.inputs = []) : step s = unscheduled s := by
  unfold step; rw [h]

/-- Everything a step can do, up to the model's own fields: nothing, the effect of a host access, the FSM's step, the
service's step, or reset. -/
theorem step_cases {s t : State} (h : step s = .next t) :
    ∃ s₁, SameBlock s s₁ ∧
      (HostEffect s₁ t ∨ fsmStep s₁ = .next t ∨ (∃ draw, serviceStep draw s₁ = .next t) ∨ t = resetBlock s₁) := by
  cases hin : s.inputs with
  | nil =>
    rw [step_silent hin] at h
    unfold unscheduled at h
    split at h
    · cases h; exact ⟨s, .refl s, .inl .nothing⟩
    · exact ⟨s, .refl s, .inr (.inl h)⟩
    · split at h
      · exact ⟨_, .of_freeCtr s _, .inr (.inr (.inl ⟨_, h⟩))⟩
      · cases h; exact ⟨_, .of_freeCtr s _, .inl .nothing⟩
  | cons e rest =>
    rw [step_event hin] at h
    cases e with
    | host a =>
      obtain ⟨s₁, h₁, h₂⟩ := hostAccess_effect h
      exact ⟨s₁, h₁, .inl h₂⟩
    | fsm => exact ⟨_, .of_inputs s rest, .inr (.inl h)⟩
    | respond d => exact ⟨_, .of_inputs s rest, .inr (.inr (.inl ⟨d, h⟩))⟩
    | lateRespond d => cases h; exact ⟨_, .of_inputs s rest, .inl .nothing⟩
    | reset => cases h; exact ⟨_, .of_inputs s rest, .inr (.inr (.inr rfl))⟩

/-- A property of the block that each agent keeps is kept by every step. -/
theorem step_keeps {P : State → Prop} (outside : ∀ {s t}, SameBlock s t → P s → P t)
    (host : ∀ {s t}, P s → HostEffect s t → P t) (fsm : ∀ {s t}, P s → fsmStep s = .next t → P t)
    (service : ∀ {s t} draw, P s → serviceStep draw s = .next t → P t) (reset : ∀ {s}, P s → P (resetBlock s))
    {s t : State} (hs : P s) (h : step s = .next t) : P t := by
  obtain ⟨s₁, hsame, hcase⟩ := step_cases h
  have h₁ := outside hsame hs
  rcases hcase with hh | hf | ⟨d, hd⟩ | rfl
  · exact host h₁ hh
  · exact fsm h₁ hf
  · exact service d h₁ hd
  · exact reset h₁

/-- Everything the service's turn can do: nothing when no request is outstanding (R143), or the response step of the
FSM state for the answer of R140. -/
theorem serviceStep_next {draw : Nat} {s t : State} (h : serviceStep draw s = .next t) :
    (s.req = none ∧ t = s) ∨ ∃ r v, s.req = some r ∧ serviceAnswer draw r = some v ∧ deliver v s = .next t := by
  unfold serviceStep at h
  split at h
  · rename_i hr; cases h; exact .inl ⟨hr, rfl⟩
  · rename_i r hr
    split at h
    · rename_i v hv; exact .inr ⟨r, v, hr, hv, h⟩
    · cases h

/-! Runs of several steps -/

theorem run_zero (s : State) : Sys2Proof.core.run 0 s = .next s := rfl

/-- A run goes on from the state its first step leaves. -/
theorem run_step {s t : State} (k : Nat) (h : step s = .next t) :
    Sys2Proof.core.run (k + 1) s = Sys2Proof.core.run k t := by
  have h' : Sys2Proof.core.step s = .next t := h
  simp only [Host.Core.run, h']

end Sys2Proof.Machine
end

