-- ==== Sys2Proof/Tests/Slice0.lean ====
section
/-! SUPPORT. Small tests, with their expected results from the spec (95_test_vectors.md, or the rule named), and for
every statement that has hypotheses a theorem that shows states and operands meeting them. -/

namespace Sys2Proof.Tests

open Sys2Proof.Machine

/-- Whether a result is a next state with property `p`. -/
def after (r : Result) (p : State → Bool) : Bool :=
  match r with
  | .next t => p t
  | .fault _ => false
  | .refused _ => false

/-- The host's write of `v` at `off`. -/
def wr (off : Nat) (v : Word) : Event := .host (.write off 4 v)

/-- The host's read at `off`. -/
def rd (off : Nat) : Event := .host (.read off 4)

/-- The end state of vector KG-1, with the ciphertext 1841 of DEC-3 in C. -/
def toy : State :=
  { State.reset with
    status := { Status.reset with done := true, keyPub := true, keyPriv := true }
    regs :=
      { Regs.reset .default with
        keybits := 8, keybitsEff := 8, nbits := 8, ctbs := 2, irqStat := 1, pdrawCnt := 3, gdrawCnt := 4 }
    buf := { n := 143, n2 := 20449, g := 144, lambda := 60, u := 31, c := 1841, x := 8581, m := 0 }
    hid := { p := 13, q := 11, t := 1, lv := 60, khalf := 4, cert := 64 } }

/-- The key of vector LP-4: loaded by the host, not generated. -/
def loaded : State := { toy with status := { toy.status with keyPub := false } }

/-- The toy values in the middle of a KEYGEN, entering state `f`. -/
def gen (f : FsmState) : State :=
  enter f
    { toy with
      status := Status.reset
      regs := { Regs.reset .default with keybits := 8, keybitsEff := 8 } }

/-- The loaded key in the middle of a DEC of 1841, entering state `f`. -/
def decr (f : FsmState) : State :=
  enter f
    { loaded with
      status := { Status.reset with keyPriv := true }
      buf := { toy.buf with x := 12728 }
      hid := { toy.hid with lv := 89 } }

/-- `s` with these events queued. -/
def seen (s : State) (l : List Event) : State := { s with inputs := l }

/-! Words and decoding: the bits are written from R300 (RSV in 31:8, OPC in 7:0) and the table of R302. -/

/-- R303: RSV is not 0. -/
theorem test_rsv_check_refuses : rsvIsZero 0x00000100#32 = false ∧ wordWellFormed 0x00000100#32 = false := by decide

/-- R303: OPC 0x08 is reserved. -/
theorem test_opc_check_refuses :
    opcIsDefined 0x00000008#32 = false ∧ wordWellFormed 0x00000008#32 = false := by decide

/-- R302. -/
theorem test_both_checks_accept :
    ∀ i : Instr, i.wellFormed = true ∧ wordWellFormed (encode i) = true := by intro i; cases i <;> decide

/-- R202, BUS-9. -/
theorem test_access_check_refuses :
    accessLegal 0x010 2 = false ∧ accessLegal 0x012 4 = false ∧ accessLegal 0x010 4 = true := by decide

theorem test_decode_nop : decode (0b000000000000000000000000#24 ++ 0b00000000#8) = .ok .nop := by decide

theorem test_decode_keygen : decode (0b000000000000000000000000#24 ++ 0b00000001#8) = .ok .keygen := by decide

theorem test_decode_dec : decode (0b000000000000000000000000#24 ++ 0b00000010#8) = .ok .dec := by decide

theorem test_decode_decx : decode (0b000000000000000000000000#24 ++ 0b00000011#8) = .ok .decx := by decide

theorem test_decode_loadpriv : decode (0b000000000000000000000000#24 ++ 0b00000100#8) = .ok .loadpriv := by decide

theorem test_decode_abort : decode (0b000000000000000000000000#24 ++ 0b00000101#8) = .ok .abort := by decide

theorem test_decode_clrstat : decode (0b000000000000000000000000#24 ++ 0b00000110#8) = .ok .clrstat := by decide

theorem test_decode_zeroize : decode (0b000000000000000000000000#24 ++ 0b00000111#8) = .ok .zeroize := by decide

/-- R303: 0x00000105 is not ABORT. -/
theorem test_decode_reserved :
    decode 0x00000105#32 = .error .reservedBits ∧ decode 0x000000FF#32 = .error .reservedOpcode := by decide

theorem test_table_word :
    decodeTableWord 32 7 = some .zeroize ∧ decodeTableWord 32 8 = none ∧ decodeTableWord 32 0x105 = none := by decide

/-- R613: ZEROIZE from reset leaves STATUS 0x00000002. -/
theorem test_fetch_word :
    after (step (State.reset.withFetchWord 32 7)) (fun t => statusWord t == 0x00000002#32 && t.inputs == []) = true := by decide

/-! The commands -/

/-- CT-1. -/
theorem test_nop :
    after (step (seen (toy) [wr 0x00C 0x00000000#32]))
      (fun t => statusWord t == 0x00000032#32 && t.regs == toy.regs) = true := by decide

/-- P5 step 3 to 5. -/
theorem test_nop_busy :
    after (step (seen (gen .kgPgen) [wr 0x00C 0x00000000#32]))
      (fun t => statusWord t == 0x02000009#32) = true := by decide

/-- CT-2. -/
theorem test_clrstat :
    after (step (seen ({ loaded with status := { loaded.status with done := false, err := true, errCode := .decNonexact } }) [wr 0x00C 0x00000006#32]))
      (fun t => statusWord t == 0x00000020#32) = true := by decide

/-- CT-3. -/
theorem test_clrstat_ovr :
    after (step (seen ({ State.reset with status := { Status.reset with done := true, ovr := true } }) [wr 0x00C 0x00000006#32]))
      (fun t => statusWord t == 0x00000000#32) = true := by decide

/-- CT-5. -/
theorem test_abort :
    after (step (seen ({ gen .kgPgen with status := { Status.reset with ovr := true } }) [wr 0x00C 0x00000005#32]))
      (fun t => statusWord t == 0x0008000C#32 && t.regs.irqStat == 2#2 && t.req == none) = true := by decide

/-- CT-4. -/
theorem test_abort_idle :
    after (step (seen (toy) [wr 0x00C 0x00000005#32]))
      (fun t => statusWord t == 0x00000032#32) = true := by decide

/-- CT-7. -/
theorem test_zeroize :
    after (step (seen (toy) [wr 0x00C 0x00000007#32]))
      (fun t => statusWord t == 0x00000002#32 && t.buf == Bufs.zero && t.hid == Hidden.zero && t.regs.keybits == 8#32 && t.regs.gdrawCnt == 0#32) = true := by decide

/-- CT-9. -/
theorem test_zeroize_busy :
    after (step (seen (gen .kgQgen) [wr 0x00C 0x00000007#32]))
      (fun t => statusWord t == 0x03000009#32 && t.hid == toy.hid) = true := by decide

/-- P2 steps 3 and 4. -/
theorem test_keygen :
    after (step (seen (toy) [wr 0x00C 0x00000001#32]))
      (fun t => statusWord t == 0x01000001#32 && t.regs.nbits == 0#32 && t.buf == toy.buf) = true := by decide

/-- R502, R510, DEC-3. -/
theorem test_dec :
    after (step (seen (loaded) [wr 0x00C 0x00000002#32]))
      (fun t => statusWord t == 0x10000021#32 && t.req == some (.modexp 1841 60 20449)) = true := by decide

/-- DEC-20. -/
theorem test_dec_no_key :
    after (step (seen (State.reset) [wr 0x00C 0x00000002#32]))
      (fun t => statusWord t == 0x00020004#32) = true := by decide

/-- R503, DECX-2. -/
theorem test_decx :
    after (step (seen (loaded) [wr 0x00C 0x00000003#32]))
      (fun t => statusWord t == 0x11000021#32 && t.req == none) = true := by decide

/-- DECX-6. -/
theorem test_decx_range :
    after (step (seen ({ loaded with buf := { toy.buf with x := 20449 } }) [wr 0x00C 0x00000003#32]))
      (fun t => statusWord t == 0x00040024#32 && t.buf.m == 0) = true := by decide

/-- LP-3. -/
theorem test_loadpriv_smallest :
    after (step (seen ({ State.reset with buf := { Bufs.zero with n := 2 } }) [wr 0x00C 0x00000004#32]))
      (fun t => statusWord t == 0x00000022#32 && t.buf.n2 == 4 && t.regs.nbits == 2#32 && t.regs.ptbs == 0#32 && t.regs.ctbs == 2#32) = true := by decide +kernel

/-- LP-5 and LP-6. -/
theorem test_loadpriv_widest :
    after (step (seen ({ State.reset with buf := { Bufs.zero with n := 2 ^ 3096 - 1 } }) [wr 0x00C 0x00000004#32]))
      (fun t => statusWord t == 0x00000022#32 && t.regs.nbits == 3096#32 && t.regs.ptbs == 386#32 && t.regs.ctbs == 774#32) = true
    ∧ after (step (seen ({ State.reset with buf := { Bufs.zero with n := 2 ^ 3096 } }) [wr 0x00C 0x00000004#32]))
      (fun t => statusWord t == 0x00050004#32) = true := by decide +kernel

/-- BUS-1. -/
theorem test_illegal_word :
    after (step (seen (State.reset) [wr 0x00C 0x00000100#32]))
      (fun t => statusWord t == 0x00010004#32) = true := by decide

/-- CT-10. -/
theorem test_illegal_word_busy :
    after (step (seen (gen .kgPgen) [wr 0x00C 0x00000105#32]))
      (fun t => statusWord t == 0x02000009#32) = true := by decide

/-! The FSM states: one step each, on the values of the vector named -/

/-- CL-7. -/
theorem test_kg_clamp_out_of_range :
    after (fsmStep ({ gen .kgClamp with regs := { Regs.reset .default with keybits := 3097 } }))
      (fun t => statusWord t == 0x02000081#32 && t.hid.khalf == 32#32 && t.regs.keybits == 3097#32) = true := by decide

/-- CL-4, R411. -/
theorem test_kg_clamp_odd :
    after (fsmStep ({ gen .kgClamp with regs := { Regs.reset .default with keybits := 9 } }))
      (fun t => t.regs.keybitsEff == 9#32 && t.hid.khalf == 4#32 && t.req == some (.primegen 4 64)) = true := by decide

/-- KG-1 step 2, KG-4a. -/
theorem test_kg_pgen :
    after (serviceStep 13 (gen .kgPgen))
      (fun t => t.hid.p == 13 && t.regs.pdrawCnt == 1#32 && t.fsm == .kgQgen) = true
    ∧ after (serviceStep 7 (gen .kgPgen))
      (fun t => statusWord t == 0x00070004#32 && t.regs.pdrawCnt == 1#32 && t.regs.irqStat == 2#2) = true := by decide

/-- KG-1 steps 3 and 4. -/
theorem test_kg_qgen :
    after (serviceStep 13 (gen .kgQgen))
      (fun t => t.hid.q == 13 && t.fsm == .kgQgen && t.req == some (.primegen 4 64)) = true
    ∧ after (serviceStep 11 (gen .kgQgen))
      (fun t => t.hid.q == 11 && t.fsm == .kgN && t.req == none) = true := by decide

/-- KG-1 steps 5 and 6. -/
theorem test_kg_n :
    after (fsmStep ({ gen .kgN with buf := Bufs.zero }))
      (fun t => t.buf.n == 143 && t.buf.n2 == 20449 && t.req == some (.gcd 12 10)) = true := by decide

/-- KG-1 step 6; RAND(15). -/
theorem test_kg_lgcd :
    after (serviceStep 0 ({ gen .kgLgcd with buf := { toy.buf with lambda := 0 } }))
      (fun t => t.hid.t == 2 && t.buf.lambda == 60 && t.req == some (.rand 15)) = true := by decide +kernel

/-- KG-1 step 7, KG-4c. -/
theorem test_kg_gdraw :
    after (serviceStep 30000 (gen .kgGdraw))
      (fun t => t.buf.g == 30000 && t.fsm == .kgGdraw && t.regs.gdrawCnt == 1#32) = true
    ∧ after (serviceStep 32768 (gen .kgGdraw))
      (fun t => statusWord t == 0x00070004#32 && t.buf.g == 144) = true := by decide +kernel

/-- KG-1 steps 9 and 16. -/
theorem test_kg_gcop :
    after (serviceStep 0 (enter .kgGcop { gen .kgGcop with buf := { toy.buf with g := 286 } }))
      (fun t => t.hid.t == 143 && t.fsm == .kgGdraw) = true
    ∧ after (serviceStep 0 (gen .kgGcop))
      (fun t => t.hid.t == 1 && t.fsm == .kgGexp) = true := by decide +kernel

/-- KG-1 step 12. -/
theorem test_kg_gexp :
    after (serviceStep 0 (enter .kgGexp { gen .kgGexp with buf := { toy.buf with g := 3, x := 0 } }))
      (fun t => t.buf.x == 15731 && t.fsm == .kgGl) = true := by decide +kernel

/-- KG-1 steps 13 and 14, KG-5a. -/
theorem test_kg_gl :
    after (fsmStep ({ gen .kgGl with buf := { toy.buf with x := 15731 } }))
      (fun t => t.hid.lv == 110 && t.req == some (.gcd 110 143)) = true
    ∧ after (fsmStep ({ gen .kgGl with buf := { toy.buf with n := 165, n2 := 27225, x := 15874 } }))
      (fun t => statusWord t == 0x00060004#32 && t.hid.lv == 60) = true := by decide

/-- KG-1 steps 14 and 19. -/
theorem test_kg_glgcd :
    after (serviceStep 0 (enter .kgGlgcd { gen .kgGlgcd with hid := { toy.hid with lv := 110 } }))
      (fun t => t.hid.t == 11 && t.fsm == .kgGdraw) = true
    ∧ after (serviceStep 0 (gen .kgGlgcd))
      (fun t => t.hid.t == 1 && t.fsm == .kgU) = true := by decide +kernel

/-- KG-1 step 20. -/
theorem test_kg_u :
    after (serviceStep 0 ({ gen .kgU with buf := { toy.buf with u := 0 } }))
      (fun t => t.buf.u == 31 && t.fsm == .kgDone) = true := by decide +kernel

/-- KG-1 step 21. -/
theorem test_kg_done :
    after (fsmStep (gen .kgDone))
      (fun t => statusWord t == 0x00000032#32 && t.regs.nbits == 8#32 && t.regs.ptbs == 0#32 && t.regs.ctbs == 2#32 && t.regs.irqStat == 1#2) = true := by decide +kernel

/-- DEC-3. -/
theorem test_dec_exp :
    after (serviceStep 0 ({ decr .decExp with buf := { toy.buf with x := 0 } }))
      (fun t => t.buf.x == 12728 && t.fsm == .decL) = true := by decide +kernel

/-- DEC-14, DEC-16, DEC-9, DEC-15. -/
theorem test_dec_exp_edges :
    modexp 22290 60 20449 = 12728 ∧ modexp 1841 0 20449 = 1 ∧ modexp 0 60 20449 = 0 ∧ modexp 40897 60 20449 = 1 := by decide +kernel

/-- DEC-3, DECX-5a. -/
theorem test_dec_l :
    after (fsmStep (decr .decL))
      (fun t => t.hid.lv == 89) = true
    ∧ after (fsmStep ({ decr .decL with buf := { toy.buf with x := 20448 } }))
      (fun t => statusWord t == 0x00030024#32 && t.hid.lv == 89) = true := by decide

/-- DEC-3. -/
theorem test_dec_mul :
    after (fsmStep (decr .decMul))
      (fun t => t.buf.m == 42 && statusWord t == 0x00000162#32) = true := by decide +kernel

/-- R521 at the limit of DEC-19a: 255 fits one byte. -/
theorem test_dec_mul_fits :
    after (fsmStep ({ decr .decMul with buf := { toy.buf with n := 60491, u := 1 }, hid := { toy.hid with lv := 255 }, regs := { toy.regs with ptbs := 1 } }))
      (fun t => t.buf.m == 255 && statusWord t == 0x00000062#32) = true := by decide +kernel

/-! The window -/

/-- BUS-4, BUS-5, BUS-14. -/
theorem test_read_constants :
    after (step (seen (gen .kgGdraw) [rd 0x000])) (fun t => t.bus == .readData 0x504B4744#32) = true
    ∧ after (step (seen (gen .kgGdraw) [rd 0x004])) (fun t => t.bus == .readData 0x00000001#32) = true
    ∧ after (step (seen (gen .kgGdraw) [rd 0x008])) (fun t => t.bus == .readData 0x00610C18#32) = true
    ∧ after (step (seen (gen .kgGdraw) [rd 0x00C])) (fun t => t.bus == .readData 0x00000000#32) = true
    ∧ after (step (seen (gen .kgGdraw) [rd 0x010])) (fun t => t.bus == .readData 0x06000001#32) = true := by decide

/-- R203, P2 steps 10 and 11. -/
theorem test_read_buffer_words :
    after (step (seen toy [rd 0x0580])) (fun t => t.bus == .readData 0x8F#32) = true
    ∧ after (step (seen toy [rd 0x057C])) (fun t => t.bus == .readData 0#32) = true
    ∧ after (step (seen toy [rd 0x0B04])) (fun t => t.bus == .readData 0x4FE1#32) = true := by decide +kernel

/-- BUS-6. -/
theorem test_read_reserved :
    after (step (seen toy [rd 0x03C])) (fun t => t.bus == .readData 0#32) = true
    ∧ after (step (seen toy [rd 0x0584])) (fun t => t.bus == .readData 0#32) = true
    ∧ after (step (seen toy [rd 0x23FC])) (fun t => t.bus == .readData 0#32) = true := by decide

/-- BUS-9. -/
theorem test_bus_error :
    step (seen toy [.host (.read 0x010 2)]) = .next { toy with bus := .error 0 }
    ∧ step (seen toy [rd 0x012]) = .next { toy with bus := .error 0 } := ⟨rfl, rfl⟩

/-- BUS-15. -/
theorem test_write_uncommits :
    after (step (seen { toy with status := { toy.status with resultValid := true } } [wr 0x0580 0x8F#32]))
      (fun t => t.buf == toy.buf && statusWord t == 0x00000002#32 && t.regs.nbits == 0#32 && t.regs.ctbs == 0#32) = true := by decide +kernel

/-- DEC-21 (DONE stays 1 here). -/
theorem test_write_u_uncommits :
    after (step (seen toy [wr 0x1580 31#32])) (fun t => t.buf == toy.buf && statusWord t == 0x00000012#32) = true := by decide +kernel

/-- R203: word 0 holds the most significant 32 bits. -/
theorem test_write_top_word :
    after (step (seen State.reset [wr 0x0400 0xFFFFFFFF#32])) (fun t => t.buf.n == 0xFFFFFFFF * 2 ^ 3072) = true := by decide +kernel

/-- BUS-7, BUS-8. -/
theorem test_write_ignored :
    after (step (seen (gen .kgPgen) [wr 0x03C 0x12345678#32])) (fun t => t.status == Status.reset) = true
    ∧ after (step (seen toy [wr 0x0B04 1#32])) (fun t => t.buf == toy.buf && t.status == toy.status) = true
    ∧ after (step (seen toy [wr 0x2180 1#32])) (fun t => t.buf == toy.buf && t.status == toy.status) = true := by decide

/-- BUS-10, BUS-11, BUS-16. -/
theorem test_irq_registers :
    after (step (seen { toy with regs := { toy.regs with irqStat := 3 } } [wr 0x030 1#32])) (fun t => t.regs.irqStat == 2#2) = true
    ∧ after (step (seen (gen .kgPgen) [wr 0x02C 0xFFFFFFFF#32])) (fun t => t.regs.irqEn == 3#2) = true
    ∧ after (step (seen toy [wr 0x02C 1#32])) irqLine = true := by decide

/-- P2 steps 5 and 6. -/
theorem test_write_dropped :
    after (step (seen (gen .kgClamp) [wr 0x014 9#32])) (fun t => t.regs.keybits == 8#32 && statusWord t == 0x01000009#32) = true := by decide

/-- R200: the window is 0x2400 bytes. -/
theorem test_outside_window : step (seen toy [rd 0x2400]) = .fault .outsideWindow := rfl

/-- R800, R801. -/
theorem test_reset_event : step (seen (gen .kgGdraw) [.reset]) = .next State.reset := rfl

/-- R143: in IDLE a response is discarded. -/
theorem test_late_response :
    after (step (seen State.reset [.respond 13, .lateRespond 13])) (fun t => t.buf == Bufs.zero && t.hid == Hidden.zero) = true := by decide

/-! Another build (R8, D39): KB_MAX 40, so N has 2 words and N2 has 4 -/

/-- A small block right after reset. -/
def small : State := .resetOf { kbMin := 4, kbMax := 40, kbDef := 16, certDef := 5 }

/-- R401: KB_MIN above 3, KB_DEF inside the bounds, KB_MAX up to 4096, and the register width of CERT_DEF. -/
theorem test_legal_refuses :
    small.build.Legal ∧ Build.default.Legal ∧ ({ small.build with kbMax := 4096 } : Build).Legal
    ∧ ¬({ small.build with kbMin := 3 } : Build).Legal
    ∧ ¬({ small.build with kbDef := 41 } : Build).Legal ∧ ¬({ small.build with kbMax := 4097 } : Build).Legal
    ∧ ¬({ small.build with certDef := 2 ^ 32 } : Build).Legal := by decide

/-- R150 and R103: KEYBITS resets to KB_DEF, CERTAINTY to CERT_DEF, PARAMS reads KB_MAX and W_N. -/
theorem test_small_reset :
    small.regs.keybits = 16#32 ∧ small.regs.certainty = 5#32 ∧ regWord small .params = 0x00020028#32
    ∧ step (seen { small with fsm := .kgPgen } [.reset]) = .next small := ⟨rfl, rfl, rfl, rfl⟩

/-- R201, R206: of the slot of N, words 0 and 1 exist and the next offset is reserved. -/
theorem test_small_map :
    regionOf small.build 0x0404 = .buf .n 1 ∧ regionOf small.build 0x0408 = .reserved
    ∧ regionOf small.build 0x080C = .buf .n2 3 ∧ regionOf small.build 0x0810 = .reserved := by decide

/-- R410: 41 is out of range for this build and gives KB_DEF; 4 and 40 are in range. -/
theorem test_small_clamp :
    effectiveKeySize small.build 41#32 = 16#32 ∧ effectiveKeySize small.build 40#32 = 40#32
    ∧ effectiveKeySize small.build 4#32 = 4#32 ∧ effectiveKeySize small.build 3#32 = 16#32 := by decide

/-- R500: 40 bits is the widest N this build commits. -/
theorem test_small_loadpriv :
    after (exec .loadpriv { small with buf := { Bufs.zero with n := 2 ^ 40 - 1 } })
      (fun t => statusWord t == 0x00000022#32 && t.regs.nbits == 40#32) = true
    ∧ after (exec .loadpriv { small with buf := { Bufs.zero with n := 2 ^ 40 } })
      (fun t => statusWord t == 0x00050004#32) = true := by decide +kernel

/-! Witnesses: for each statement with hypotheses, in the order of the statements, states and operands that meet all of
them together, for each clause, at the edges of its range. -/

theorem witness_StepRunsTheDecodedCommand :
    (seen toy [wr 0x00C 7#32]).inputs = .host (.write 0x00C 4 7#32) :: [] ∧ decode 7#32 = .ok .zeroize := by decide

theorem witness_CmdWriteIsDispatchedInOrder :
    (∀ v, (seen toy [wr 0x00C v]).inputs = .host (.write 0x00C 4 v) :: [])
    ∧ toy.fsm = .idle ∧ (gen .kgPgen).fsm ≠ .idle
    ∧ ((0x100#32).extractLsb' 8 24 ≠ 0#24) ∧ ((7#32).extractLsb' 8 24 = 0#24 ∧ ((7#32).extractLsb' 0 8).toNat < 8)
    ∧ 8 ≤ ((8#32).extractLsb' 0 8).toNat := ⟨fun _ => rfl, by decide⟩

theorem witness_NopChangesNothing : toy.fsm = .idle ∧ (gen .kgPgen).fsm ≠ .idle := by decide

theorem witness_ClrstatClearsTheOutcomeOnly : toy.fsm = .idle ∧ (gen .kgPgen).fsm ≠ .idle := by decide

theorem witness_AbortEndsTheRunningCommand :
    toy.fsm = .idle ∧ (gen .kgPgen).fsm ≠ .idle ∧ (decr .decMul).fsm ≠ .idle := by decide

theorem witness_ZeroizeErasesEverything : toy.fsm = .idle ∧ (gen .kgPgen).fsm ≠ .idle := by decide

theorem witness_KeygenIsAccepted : toy.fsm = .idle := by decide

theorem witness_DecIsAcceptedWithAPrivateKey : loaded.fsm = .idle ∧ loaded.status.keyPriv = true := by decide

theorem witness_DecryptionNeedsAPrivateKey :
    (Instr.dec = .dec ∨ Instr.dec = .decx) ∧ (Instr.decx = .dec ∨ Instr.decx = .decx) ∧ State.reset.fsm = .idle
    ∧ State.reset.status.keyPriv = false := by decide

/-- The loaded key with `x` in X. -/
def withX (x : Nat) : State := { loaded with buf := { loaded.buf with x := x } }

theorem witness_DecxIsAcceptedBelowTheSquare :
    (withX 20448).fsm = .idle ∧ (withX 20448).status.keyPriv = true ∧ (withX 20448).buf.x < (withX 20448).buf.n2
    ∧ (withX 20449).fsm = .idle ∧ (withX 20449).status.keyPriv = true ∧ (withX 20449).buf.n2 ≤ (withX 20449).buf.x := by decide

/-- The reset state with `n` in N. -/
def withN (n : Nat) : State := { State.reset with buf := { Bufs.zero with n := n } }

theorem witness_LoadprivCommitsOrRejectsTheModulus :
    (withN 2).fsm = .idle ∧ 2 ≤ (withN 2).buf.n ∧ bitLength (withN 2).buf.n ≤ (withN 2).build.kbMax
    ∧ (withN (2 ^ 3096 - 1)).fsm = .idle ∧ 2 ≤ (withN (2 ^ 3096 - 1)).buf.n
    ∧ bitLength (withN (2 ^ 3096 - 1)).buf.n ≤ (withN (2 ^ 3096 - 1)).build.kbMax
    ∧ (withN 1).fsm = .idle ∧ (withN 1).buf.n < 2 ∧ (withN (2 ^ 3096)).fsm = .idle
    ∧ (withN (2 ^ 3096)).build.kbMax < bitLength (withN (2 ^ 3096)).buf.n := by decide +kernel

theorem witness_CommandsAreDroppedWhileBusy : (gen .kgClamp).fsm ≠ .idle ∧ Instr.zeroize ≠ .abort := by decide

theorem witness_CommandsKeepWhatTheyDoNotName :
    ∀ i : Instr, (∃ t, exec i toy = .next t) ∧ ∃ t, exec i (gen .kgPgen) = .next t := by
  intro i
  cases i <;> exact ⟨⟨_, rfl⟩, ⟨_, rfl⟩⟩

theorem witness_EachAgentTakesItsOwnStep :
    (seen toy [.fsm]).inputs = .fsm :: [] ∧ (seen toy [.respond 7]).inputs = .respond 7 :: []
    ∧ (seen toy [.lateRespond 7]).inputs = .lateRespond 7 :: [] ∧ (gen .kgPgen).fsm.kind ≠ .internal ∧ toy.req = none
    ∧ toy.inputs = [] ∧ toy.fsm = .idle ∧ (gen .kgN).inputs = [] ∧ (gen .kgN).fsm.kind = .internal
    ∧ (gen .kgPgen).inputs = [] ∧ (gen .kgPgen).fsm.kind = .service := by decide

/-- In KG_CLAMP with `k` in KEYBITS. -/
def clampOf (k : Word) : State := { gen .kgClamp with regs := { (gen .kgClamp).regs with keybits := k } }

theorem witness_KgClampBoundsTheKeySize :
    (∀ k, (clampOf k).fsm = .kgClamp)
    ∧ keySizeInRange .default 7#32 = false ∧ keySizeInRange .default 8#32 = true ∧ keySizeInRange .default 3096#32 = true
    ∧ keySizeInRange .default 3097#32 = false := ⟨fun _ => rfl, by decide⟩

theorem witness_KgPgenTakesAPrimeOfKhalfBits :
    (gen .kgPgen).fsm = .kgPgen ∧ (gen .kgPgen).req = some (.primegen 4 64)
    ∧ bitLength 7 ≠ (gen .kgPgen).hid.khalf.toNat ∧ bitLength 8 = (gen .kgPgen).hid.khalf.toNat
    ∧ bitLength 15 = (gen .kgPgen).hid.khalf.toNat ∧ bitLength 16 ≠ (gen .kgPgen).hid.khalf.toNat := by decide +kernel

theorem witness_KgQgenRedrawsUntilThePrimesDiffer :
    (gen .kgQgen).fsm = .kgQgen ∧ (gen .kgQgen).req = some (.primegen 4 64)
    ∧ bitLength 16 ≠ (gen .kgQgen).hid.khalf.toNat
    ∧ (bitLength 13 = (gen .kgQgen).hid.khalf.toNat ∧ 13 = (gen .kgQgen).hid.p)
    ∧ (bitLength 11 = (gen .kgQgen).hid.khalf.toNat ∧ 11 ≠ (gen .kgQgen).hid.p) := by decide +kernel

theorem witness_KgNMultipliesThePrimes : (gen .kgN).fsm = .kgN := by decide

theorem witness_KgLgcdComputesLambda :
    (gen .kgLgcd).fsm = .kgLgcd ∧ (gen .kgLgcd).req = some (.gcd 12 10) ∧ 2 ≤ (gen .kgLgcd).hid.p
    ∧ 2 ≤ (gen .kgLgcd).hid.q := by decide

theorem witness_KgGdrawScreensTheCandidate :
    (gen .kgGdraw).fsm = .kgGdraw ∧ (gen .kgGdraw).req = some (.rand (bitLength 20449))
    ∧ 2 ^ bitLength (gen .kgGdraw).buf.n2 ≤ 32768
    ∧ (32767 < 2 ^ bitLength (gen .kgGdraw).buf.n2 ∧ (gen .kgGdraw).buf.n2 ≤ 32767)
    ∧ (20448 < 2 ^ bitLength (gen .kgGdraw).buf.n2 ∧ 20448 < (gen .kgGdraw).buf.n2) := by decide +kernel

/-- In KG_GCOP with the candidate `g`, and in KG_GLGCD with the value `lv`. -/
def screening (f : FsmState) (g lv : Nat) : State :=
  enter f { gen f with buf := { toy.buf with g := g }, hid := { toy.hid with lv := lv } }

theorem witness_TheGcdScreensDrawAgain :
    (∀ g ∈ [0, 144, 286],
      (screening .kgGcop g 0).fsm = .kgGcop
      ∧ (screening .kgGcop g 0).req = some (.gcd g 20449))
    ∧ Nat.gcd 0 20449 ≠ 1 ∧ Nat.gcd 144 20449 = 1 ∧ Nat.gcd 286 20449 ≠ 1
    ∧ (∀ lv ∈ [0, 60, 110],
      (screening .kgGlgcd 144 lv).fsm = .kgGlgcd
      ∧ (screening .kgGlgcd 144 lv).req = some (.gcd lv 143))
    ∧ Nat.gcd 0 143 ≠ 1 ∧ Nat.gcd 60 143 = 1 ∧ Nat.gcd 110 143 ≠ 1 := by decide +kernel

theorem witness_ExponentiationStatesWriteX :
    1 ≤ (gen .kgGexp).buf.n2 ∧ (gen .kgGexp).fsm = .kgGexp
    ∧ (gen .kgGexp).req = some (.modexp 144 60 20449) ∧ 1 ≤ (decr .decExp).buf.n2
    ∧ (decr .decExp).fsm = .decExp ∧ (decr .decExp).req = some (.modexp 1841 60 20449) := by decide

/-- In KG_GL or DEC_L with `x` in X. -/
def dividing (f : FsmState) (x : Nat) : State := { gen f with buf := { toy.buf with x := x } }

theorem witness_KgGlNeedsAnExactDivision :
    (∀ x ∈ [0, 1, 2, 8581], (dividing .kgGl x).fsm = .kgGl ∧ 1 ≤ (dividing .kgGl x).buf.n)
    ∧ (2 - 1) % (dividing .kgGl 2).buf.n ≠ 0 ∧ (1 - 1) % (dividing .kgGl 1).buf.n = 0
    ∧ (8581 - 1) % (dividing .kgGl 8581).buf.n = 0 := by decide

theorem witness_KgUInvertsL :
    (gen .kgU).fsm = .kgU ∧ (gen .kgU).req = some (.modinv 60 143) ∧ 1 ≤ (gen .kgU).buf.n
    ∧ Nat.gcd (gen .kgU).hid.lv (gen .kgU).buf.n = 1 := by decide +kernel

theorem witness_KgDoneCommitsTheKey : (gen .kgDone).fsm = .kgDone := by decide

theorem witness_DecLNeedsAnExactDivision :
    (∀ x ∈ [0, 1, 12728, 20448], (dividing .decL x).fsm = .decL ∧ 1 ≤ (dividing .decL x).buf.n)
    ∧ (20448 - 1) % (dividing .decL 20448).buf.n ≠ 0 ∧ (1 - 1) % (dividing .decL 1).buf.n = 0
    ∧ (12728 - 1) % (dividing .decL 12728).buf.n = 0 := by decide

theorem witness_DecMulWritesTheResult : (decr .decMul).fsm = .decMul ∧ 1 ≤ (decr .decMul).buf.n := by decide

theorem witness_ModexpIsTheExactPower : (1 : Nat) ≤ 1 ∧ (1 : Nat) ≤ 20449 := by decide

theorem witness_ModinvIsTheUniqueInverse :
    (1 : Nat) ≤ 1 ∧ Nat.gcd 0 1 = 1 ∧ (1 : Nat) ≤ 143 ∧ Nat.gcd 60 143 = 1
    ∧ (31 : Nat) < 143 ∧ 60 * 31 % 143 = 1 % 143 := by decide

theorem witness_BuffersAreBigEndianWords :
    0 < Buf.words .default .n ∧ 96 < Buf.words .default .n ∧ 193 < Buf.words .default .x
    ∧ toy.buf.get .n < 2 ^ (32 * Buf.words .default .n) ∧ loaded.buf.get .n < 2 ^ (32 * Buf.words .default .n)
    ∧ (∀ i, i < Buf.words .default .n → bufWord toy .n i = bufWord loaded .n i)
    ∧ toy.build = .default ∧ loaded.build = .default :=
  ⟨by decide, by decide, by decide, by decide +kernel, by decide +kernel, fun _ _ => rfl, rfl, rfl⟩

theorem witness_AWrittenBufferWordReadsBack :
    toy.build.Legal ∧ toy.fsm = .idle ∧ Buf.hostWritable .g = true ∧ 193 < Buf.words .default .g
    ∧ (seen toy [wr (Buf.offset .g 193) 5#32, rd (Buf.offset .g 193)]).inputs =
      .host (.write (Buf.offset .g 193) 4 5#32) :: .host (.read (Buf.offset .g 193) 4) :: [] := by decide

theorem witness_ABufferWriteKeepsEveryOtherWord :
    toy.build.Legal ∧ toy.fsm = .idle ∧ Buf.hostWritable .n = true ∧ 0 < Buf.words .default .n ∧ 96 < Buf.words .default .n
    ∧ (seen toy [wr (Buf.offset .n 0) 5#32]).inputs = .host (.write (Buf.offset .n 0) 4 5#32) :: []
    ∧ (seen toy [wr (Buf.offset .n 96) 5#32]).inputs = .host (.write (Buf.offset .n 96) 4 5#32) :: [] := by decide

theorem witness_BufferWritesUncommitTheKey :
    ∀ b ∈ [Buf.n, Buf.g, Buf.lambda, Buf.u, Buf.c, Buf.x],
      toy.build.Legal ∧ toy.fsm = .idle ∧ b.hostWritable = true ∧ b.words toy.build - 1 < b.words toy.build
      ∧ (seen toy [wr (b.offset (b.words toy.build - 1)) 5#32]).inputs =
        .host (.write (b.offset (b.words toy.build - 1)) 4 5#32) :: [] := by decide

theorem witness_ControlRegistersReadAtTheirOffsets :
    (seen toy [rd 0x000]).inputs = .host (.read 0x000 4) :: []
    ∧ (seen (gen .kgPgen) [rd 0x038]).inputs = .host (.read 0x038 4) :: [] := by decide

theorem witness_BufferAndReservedReads :
    (seen toy [rd 0x0580]).inputs = .host (.read 0x0580 4) :: [] ∧ toy.build.Legal ∧ 96 < Buf.words .default .n ∧ 0x0580 = Buf.offset .n 96
    ∧ toy.fsm = .idle ∧ (seen (decr .decExp) [rd 0x1F04]).inputs = .host (.read 0x1F04 4) :: []
    ∧ 193 < Buf.words .default .x ∧ 0x1F04 = Buf.offset .x 193 ∧ (decr .decExp).fsm ≠ .idle
    ∧ (decr .decExp).build.Legal
    ∧ (∀ off ∈ [0x3C, 0x3FC, 0x584, 0x23FC],
      (seen toy [rd off]).inputs = .host (.read off 4) :: [] ∧ off < 0x2400 ∧ off % 4 = 0 ∧ 0x3C ≤ off
      ∧ regionOf .default off = .reserved) := by decide

theorem witness_ReadsAndRepeatedWritesHaveNoSideEffect :
    (seen toy [.host (.read 0x23FF 1)]).inputs = .host (.read 0x23FF 1) :: [] ∧ 0x23FF < 0x2400
    ∧ (seen toy [wr 0x0580 5#32, wr 0x0580 5#32]).inputs =
      .host (.write 0x0580 4 5#32) :: .host (.write 0x0580 4 5#32) :: []
    ∧ 0x0580 < 0x2400 ∧ 0x0580 % 4 = 0 ∧ 0x0580 ≠ 0x00C := by decide

theorem witness_OnlyAlignedWordsAreAccessed :
    (seen toy [.host (.read 0x010 2)]).inputs = .host (.read 0x010 2) :: [] ∧ 0x010 < 0x2400 ∧ 2 ≠ 4
    ∧ (seen toy [wr 0x23FE 5#32]).inputs = .host (.write 0x23FE 4 5#32) :: [] ∧ 0x23FE < 0x2400 ∧ 0x23FE % 4 ≠ 0 := by decide

theorem witness_ReadOnlyAndReservedWritesAreIgnored :
    (∀ off ∈ [0x000, 0x038, 0x3C, 0x0800, 0x0B04, 0x2000, 0x2180, 0x23FC],
      (seen toy [wr off 5#32]).inputs = .host (.write off 4 5#32) :: [] ∧ off < 0x2400 ∧ off % 4 = 0)
    ∧ regionOf .default 0x0B04 = .buf .n2 193 ∧ regionOf .default 0x2180 = .buf .m 96 ∧ regionOf .default 0x23FC = .reserved := by decide

theorem witness_InterruptRegistersAndOutput :
    (seen toy [wr 0x02C 3#32]).inputs = .host (.write 0x02C 4 3#32) :: []
    ∧ (seen (gen .kgPgen) [wr 0x030 3#32]).inputs = .host (.write 0x030 4 3#32) :: [] := by decide

theorem witness_HostWritesWaitForTheCommand :
    (seen toy [wr 0x014 9#32]).inputs = .host (.write 0x014 4 9#32) :: [] ∧ toy.fsm = .idle
    ∧ (seen toy [wr 0x018 9#32]).inputs = .host (.write 0x018 4 9#32) :: []
    ∧ (seen (gen .kgPgen) [wr 0x1F04 9#32]).inputs = .host (.write 0x1F04 4 9#32) :: []
    ∧ (gen .kgPgen).build.Legal ∧ (gen .kgPgen).fsm ≠ .idle ∧ Buf.hostWritable .x = true ∧ 193 < Buf.words .default .x ∧ 0x1F04 = Buf.offset .x 193 := by decide

/-- `toy` with OVR set and both interrupts pending. -/
def noisy : State := { toy with status := { toy.status with ovr := true }, regs := { toy.regs with irqStat := 3 } }

theorem witness_TheStateFollowsItsTransitions :
    after (step (seen toy [wr 0x00C 1#32])) (fun t => t.fsm != toy.fsm) = true ∧ toy.fsm = .idle
    ∧ after (step (seen (gen .kgPgen) [wr 0x00C 5#32])) (fun t => t.fsm == .idle) = true
    ∧ after (step (seen (gen .kgPgen) [.respond 7])) (fun t => t.fsm == .idle) = true
    ∧ (gen .kgPgen).fsm ≠ .idle
    ∧ after (step (seen (gen .kgN) [.fsm])) (fun t => t.fsm != .idle && t.fsm != .kgN) = true
    ∧ (gen .kgN).fsm ≠ .idle := by decide

theorem witness_OnlyClrstatAndResetClearOvr :
    noisy.status.ovr = true
    ∧ after (step (seen noisy [wr 0x00C 6#32])) (fun t => t.status.ovr == false) = true
    ∧ after (step (seen noisy [.reset])) (fun t => t.status.ovr == false) = true := by decide

theorem witness_OnlyTheHostAndResetClearAnInterrupt :
    noisy.regs.irqStat.getLsbD 1 = true
    ∧ after (step (seen noisy [wr 0x030 2#32])) (fun t => t.regs.irqStat.getLsbD 1 == false) = true
    ∧ after (step (seen noisy [.reset])) (fun t => t.regs.irqStat.getLsbD 1 == false) = true := by decide

theorem witness_OnlyTheNamedWritersChangeABuffer :
    after (step (seen (decr .decMul) [.fsm])) (fun t => t.buf.m != (decr .decMul).buf.m) = true
    ∧ after (step (seen (withN 2) [wr 0x00C 4#32])) (fun t => t.buf.n2 != (withN 2).buf.n2) = true
    ∧ after (step (seen toy [wr 0x1B04 5#32])) (fun t => t.buf.c != toy.buf.c) = true
    ∧ after (step (seen (clampOf 9#32) [.fsm])) (fun t => t.regs.keybitsEff != (clampOf 9#32).regs.keybitsEff) = true := by decide +kernel

theorem witness_ResetLeavesTheStatedValues : (seen (gen .kgPgen) [.reset]).inputs = .reset :: [] := by decide

/-- The toy key is a good state, idle after KEYGEN, at the last step of KEYGEN, and inside DEC. -/
theorem inv_toy (l : List Event) : Inv (seen toy l) :=
  ⟨by show Build.default.Legal; decide, by show Widths toy; decide +kernel, by show OneOutcome toy; decide, by show SizesMatch toy; decide +kernel, rfl,
    fun _ => by show Modulus toy; decide +kernel, fun _ => by show PublicKey toy; decide +kernel,
    fun _ => by show Modulus toy; decide +kernel, fun h => absurd h (by show ¬(false = true); decide), trivial⟩

theorem inv_kgDone (l : List Event) : Inv (seen (gen .kgDone) l) :=
  ⟨by show Build.default.Legal; decide, by show Widths (gen .kgDone); decide +kernel, by show OneOutcome (gen .kgDone); decide,
    by show SizesMatch (gen .kgDone); decide +kernel, rfl,
    fun h => absurd rfl h, fun h => absurd h (by show ¬(false = true); decide),
    fun h => absurd h (by show ¬(false = true); decide), fun h => absurd h (by show ¬(false = true); decide),
    by show KgU (gen .kgDone); decide +kernel⟩

theorem inv_decMul (l : List Event) : Inv (seen (decr .decMul) l) :=
  ⟨by show Build.default.Legal; decide, by show Widths (decr .decMul); decide +kernel, by show OneOutcome (decr .decMul); decide,
    by show SizesMatch (decr .decMul); decide +kernel, rfl,
    fun _ => by show Modulus (decr .decMul); decide +kernel, fun h => absurd h (by show ¬(false = true); decide),
    fun _ => by show Modulus (decr .decMul); decide +kernel, fun h => absurd h (by show ¬(false = true); decide),
    by show DecLv (decr .decMul); decide +kernel⟩

theorem witness_ResetIsAGoodState : Build.default.Legal ∧ small.build.Legal := by decide

theorem witness_EveryStepKeepsTheInvariant :
    Inv (seen (gen .kgDone) [.fsm]) ∧ (∃ t, step (seen (gen .kgDone) [.fsm]) = .next t)
    ∧ Inv (seen (decr .decMul) [.fsm]) ∧ ∃ t, step (seen (decr .decMul) [.fsm]) = .next t := ⟨inv_kgDone _, ⟨_, rfl⟩, inv_decMul _, ⟨_, rfl⟩⟩

theorem witness_GoodStatesAlwaysStep :
    Inv (seen toy [rd 0x23FC]) ∧ nextInWindow (seen toy [rd 0x23FC]) = true ∧ Inv (seen (gen .kgDone) [])
    ∧ nextInWindow (seen (gen .kgDone) []) = true := ⟨inv_toy _, by decide, inv_kgDone _, by decide⟩

theorem witness_CompletedKeygenLeavesAValidKey :
    Inv (seen (gen .kgDone) [.fsm]) ∧ (seen (gen .kgDone) [.fsm]).fsm = .kgDone
    ∧ (seen (gen .kgDone) [.fsm]).inputs = .fsm :: [] := ⟨inv_kgDone _, rfl, rfl⟩

/-- A whole DEC, uninterrupted. -/
def decRun : List Event := [wr 0x00C 2#32, .respond 0, .fsm, .fsm]

/-- The toy key with `c` in C. -/
def withC (c : Nat) : State := seen { toy with buf := { toy.buf with c := c } } decRun

theorem inv_withC (c : Nat) (h : c < 2 ^ (32 * Build.default.wN2)) : Inv (withC c) := by
  have w := (inv_toy decRun).widths
  have i := inv_toy decRun
  exact ⟨i.legal, ⟨w.1, w.2.1, w.2.2.1, w.2.2.2.1, w.2.2.2.2.1, h, w.2.2.2.2.2.2⟩, i.outcome, i.sizes, rfl, i.modulus,
    i.pubKey, i.privKey, fun h => absurd h (by show ¬(false = true); decide), trivial⟩

theorem witness_DecComputesTheFormula :
    (withC 1841).fsm = .idle ∧ (withC 1841).status.keyPriv = true ∧ Inv (withC 1841)
    ∧ (withC 1841).inputs = .host (.write 0x00C 4 2#32) :: .respond 0 :: .fsm :: [.fsm]
    ∧ (1841 ^ 60 % (143 * 143) ≠ 0 ∧ (1841 ^ 60 % (143 * 143) - 1) % 143 = 0)
    ∧ Inv (withC 0) ∧ 0 ^ 60 % (143 * 143) = 0
    ∧ Inv (withC 11) ∧ (11 ^ 60 % (143 * 143) - 1) % 143 ≠ 0 := ⟨rfl, rfl, inv_withC _ (by decide +kernel), rfl, by decide +kernel, inv_withC _ (by decide +kernel), by decide +kernel,
      inv_withC _ (by decide +kernel), by decide +kernel⟩

/-- DEC-3. -/
theorem witness_DecryptionInvertsEncryption :
    (withC 1841).fsm = .idle ∧ (withC 1841).status.keyPriv = true ∧ GeneratedKey (withC 1841)
    ∧ (withC 1841).hid.p.Prime ∧ (withC 1841).hid.q.Prime
    ∧ 42 < (withC 1841).buf.n ∧ 0 < 5 ∧ 5 < (withC 1841).buf.n ∧ Nat.gcd 5 (withC 1841).buf.n = 1
    ∧ (withC 1841).buf.c = 144 ^ 42 * 5 ^ 143 % 20449
    ∧ (withC 1841).inputs = .host (.write 0x00C 4 0x00000002#32) :: .respond 0 :: .fsm :: .fsm :: [] := ⟨rfl, rfl, by decide +kernel, by show Nat.Prime 13; decide, by show Nat.Prime 11; decide, by decide, by decide,
      by decide, by decide +kernel, by decide +kernel, rfl⟩

/-- DEC-7. -/
theorem witness_DecryptionAddsPlaintexts :
    (withC 5398).fsm = .idle ∧ (withC 5398).status.keyPriv = true ∧ GeneratedKey (withC 5398)
    ∧ (withC 5398).hid.p.Prime ∧ (withC 5398).hid.q.Prime
    ∧ 42 < (withC 5398).buf.n ∧ 142 < (withC 5398).buf.n ∧ 0 < 5 ∧ 5 < (withC 5398).buf.n
    ∧ Nat.gcd 5 (withC 5398).buf.n = 1 ∧ 0 < 7 ∧ 7 < (withC 5398).buf.n ∧ Nat.gcd 7 (withC 5398).buf.n = 1
    ∧ (withC 5398).buf.c = (144 ^ 42 * 5 ^ 143 % 20449) * (144 ^ 142 * 7 ^ 143 % 20449) % 20449
    ∧ (withC 5398).inputs = .host (.write 0x00C 4 0x00000002#32) :: .respond 0 :: .fsm :: .fsm :: [] := ⟨rfl, rfl, by decide +kernel, by show Nat.Prime 13; decide, by show Nat.Prime 11; decide, by decide, by decide,
      by decide, by decide, by decide +kernel, by decide, by decide, by decide +kernel, by decide +kernel, rfl⟩

theorem witness_AbortRacesCompletion :
    (decr .decMul).fsm = .decMul ∧ 1 ≤ (decr .decMul).buf.n
    ∧ (seen (decr .decMul) [.fsm, wr 0x00C 5#32]).inputs = .fsm :: .host (.write 0x00C 4 0x00000005#32) :: []
    ∧ (seen (decr .decMul) [wr 0x00C 5#32, .fsm]).inputs = .host (.write 0x00C 4 0x00000005#32) :: .fsm :: [] := by decide

theorem witness_HiddenStateHasNoAddress :
    (seen toy [rd 0x23FC]).inputs = .host (.read 0x23FC 4) :: [] ∧ (∀ v, Access.read 0x23FC 4 ≠ .write 0x00C 4 v)
    ∧ nextInWindow (seen toy [rd 0x23FC]) = true := ⟨rfl, (fun _ h => by cases h), by decide⟩

end Sys2Proof.Tests
end

section
/-! SUPPORT. The exact functions of the service (R14): what the two loops compute, and what each answer is. -/

namespace Sys2Proof.Machine

/-! MODEXP -/

/-- Square-and-multiply: the loop multiplies the accumulator by `b ^ e`, once it has fuel for every bit of `e`. -/
theorem modexpLoop_modEq (m fuel b e acc : Nat) (he : e < 2 ^ fuel) :
    modexpLoop m fuel b e acc ≡ acc * b ^ e [MOD m] := by
  induction fuel generalizing b e acc with
  | zero =>
    have he0 : e = 0 := by simpa using he
    subst he0
    simp [modexpLoop, Nat.ModEq.refl]
  | succ fuel ih =>
    have hsquare : (b * b % m) ^ (e / 2) ≡ b ^ (2 * (e / 2)) [MOD m] := by
      rw [pow_mul, pow_two]
      exact (Nat.mod_modEq _ _).pow _
    have hrec := ih (b * b % m) (e / 2) (if e % 2 = 1 then acc * b % m else acc) (by rw [pow_succ] at he; omega)
    refine hrec.trans ?_
    by_cases hodd : e % 2 = 1
    · have hsplit : acc * b ^ e = acc * b * b ^ (2 * (e / 2)) := by
        rw [mul_assoc, ← pow_succ', show 2 * (e / 2) + 1 = e by omega]
      rw [if_pos hodd, hsplit]
      exact (Nat.mod_modEq _ _).mul hsquare
    · rw [if_neg hodd, show b ^ e = b ^ (2 * (e / 2)) by rw [show 2 * (e / 2) = e by omega]]
      exact hsquare.mul_left _

theorem modexp_eq_pow_mod (b e m : Nat) (hm : 1 ≤ m) : modexp b e m = b ^ e % m := by
  have hloop : modexp b e m ≡ 1 * b ^ e [MOD m] :=
    (modexpLoop_modEq m _ _ _ _ (lt_two_pow_bitLength e)).trans
      ((Nat.mod_modEq _ _).mul ((Nat.mod_modEq _ _).pow _))
  rw [one_mul] at hloop
  rw [← hloop, Nat.mod_eq_of_lt (modexp_lt b e m hm)]

/-- Settles O33: the loop keeps `acc * b ^ e` modulo `m`, and its result is below `m`. -/
theorem modexpIsTheExactPower : Obligations.ModexpIsTheExactPower := modexp_eq_pow_mod

/-! MODINV -/

/-- One pass of Euclid's algorithm keeps `a * t ≡ r`, for the remainder of `r0` by `r1`. -/
theorem modinv_pass {a m r0 r1 t0 t1 : Nat} (hm : 1 ≤ m) (h0 : a * t0 ≡ r0 [MOD m]) (h1 : a * t1 ≡ r1 [MOD m]) :
    a * ((t0 + (m - r0 / r1 * t1 % m)) % m) ≡ r0 % r1 [MOD m] := by
  have hle : r0 / r1 * t1 % m ≤ m := (Nat.mod_lt _ hm).le
  have hsub : a * (r0 / r1 * t1 % m) ≡ r1 * (r0 / r1) [MOD m] := calc
    a * (r0 / r1 * t1 % m) ≡ a * (r0 / r1 * t1) [MOD m] := (Nat.mod_modEq _ _).mul_left a
    _ = a * t1 * (r0 / r1) := by ring
    _ ≡ r1 * (r0 / r1) [MOD m] := h1.mul_right _
  have hadd : a * (t0 + (m - r0 / r1 * t1 % m)) + a * (r0 / r1 * t1 % m) ≡ r0 % r1 + r1 * (r0 / r1) [MOD m] := calc
    _ = a * t0 + m * a := by rw [← mul_add, add_assoc, Nat.sub_add_cancel hle]; ring
    _ ≡ a * t0 [MOD m] := Nat.add_mul_mod_self_left _ _ _
    _ ≡ r0 [MOD m] := h0
    _ = r0 % r1 + r1 * (r0 / r1) := (Nat.mod_add_div r0 r1).symm
  exact ((Nat.mod_modEq _ _).mul_left a).trans (Nat.ModEq.add_right_cancel hsub hadd)

/-- Euclid's loop ends at a factor `t` with `a * t ≡ GCD(r0, r1)`, once it has more fuel than `r1`. -/
theorem modinvLoop_modEq {a m : Nat} (hm : 1 ≤ m) (fuel r0 r1 t0 t1 : Nat) (hfuel : r1 < fuel)
    (h0 : a * t0 ≡ r0 [MOD m]) (h1 : a * t1 ≡ r1 [MOD m]) :
    a * modinvLoop m fuel r0 r1 t0 t1 ≡ Nat.gcd r0 r1 [MOD m] := by
  induction fuel generalizing r0 r1 t0 t1 with
  | zero => omega
  | succ fuel ih =>
    unfold modinvLoop
    split
    case isTrue hr => rw [hr, Nat.gcd_zero_right]; exact h0
    case isFalse hr =>
      have hlt : r0 % r1 < r1 := Nat.mod_lt _ (by omega)
      have hgcd : Nat.gcd r1 (r0 % r1) = Nat.gcd r0 r1 := by rw [Nat.gcd_comm, ← Nat.gcd_rec, Nat.gcd_comm]
      rw [← hgcd]
      exact ih _ _ _ _ (by omega) h1 (modinv_pass hm h0 h1)

theorem mul_modinv_modEq_one {a m : Nat} (hm : 1 ≤ m) (hgcd : Nat.gcd a m = 1) : a * modinv a m ≡ 1 [MOD m] := by
  have hstart : Nat.gcd m (a % m) = 1 := by rw [Nat.gcd_comm, ← Nat.gcd_rec, Nat.gcd_comm, hgcd]
  rw [← hstart]
  refine modinvLoop_modEq hm _ _ _ _ _ ((Nat.mod_lt a hm).trans (Nat.lt_succ_self m)) ?_ ?_
  · simp [Nat.ModEq]
  · simp [Nat.ModEq]

/-- Settles O34: `modinv` is an inverse by Euclid's loop, and two inverses below `m` are equal since `a` cancels. -/
theorem modinvIsTheUniqueInverse : Obligations.ModinvIsTheUniqueInverse := by
  intro a m hm hgcd
  have hinv := mul_modinv_modEq_one hm hgcd
  refine ⟨modinv_lt a m hm, hinv, fun v hv hav => ?_⟩
  have hcancel : v ≡ modinv a m [MOD m] :=
    Nat.ModEq.cancel_left_of_coprime (Nat.gcd_comm a m ▸ hgcd) (Nat.ModEq.trans hav hinv.symm)
  exact hcancel.eq_of_lt_of_lt hv (modinv_lt a m hm)

end Sys2Proof.Machine
end

section
/-! SUPPORT. The invariant in parts: the buffer widths, the clauses KEYGEN leaves trivial, and what holds of the
answer the service gives (R10, R105, R140, R400). -/

namespace Sys2Proof.Machine

/-! Widths -/

/-- Every host-visible buffer fits its words (R10, R126). -/
def BufsFit (c : Build) (bs : Bufs) : Prop := ∀ b : Buf, bs.get b < 2 ^ (32 * b.words c)

/-- Every internal buffer fits its words (R10, R128). -/
abbrev HiddenFits (c : Build) (h : Hidden) : Prop :=
  h.p < 2 ^ (32 * c.wN) ∧ h.q < 2 ^ (32 * c.wN) ∧ h.t < 2 ^ (32 * c.wN2) ∧ h.lv < 2 ^ (32 * c.wN)

theorem widths_iff (s : State) : Widths s ↔ BufsFit s.build s.buf ∧ HiddenFits s.build s.hid := by
  constructor
  · rintro ⟨hn, hn2, hg, hlambda, hu, hc, hx, hm, hhid⟩
    exact ⟨fun b => by cases b <;> assumption, hhid⟩
  · rintro ⟨hb, hhid⟩
    exact ⟨hb .n, hb .n2, hb .g, hb .lambda, hb .u, hb .c, hb .x, hb .m, hhid⟩

theorem bufsFit_set {c : Build} {bs : Bufs} (h : BufsFit c bs) (b : Buf) {v : Nat} (hv : v < 2 ^ (32 * b.words c)) :
    BufsFit c (bs.set b v) := by
  intro b'
  by_cases hb : b' = b
  · subst hb; rwa [get_set_same]
  · rw [get_set_other _ _ _ _ hb]; exact h b'

theorem bufsFit_zero (c : Build) : BufsFit c .zero := fun b => by cases b <;> exact Nat.two_pow_pos _

theorem hiddenFits_zero (c : Build) : HiddenFits c .zero :=
  ⟨Nat.two_pow_pos _, Nat.two_pow_pos _, Nat.two_pow_pos _, Nat.two_pow_pos _⟩

/-- A number of at most KB_MAX bits fits an n-wide buffer (R8). -/
theorem fits_of_bitLength_le {c : Build} {v : Nat} (h : bitLength v ≤ c.kbMax) : v < 2 ^ (32 * c.wN) := by
  have hw : c.kbMax ≤ 32 * c.wN := by unfold Build.wN; omega
  exact (bitLength_le_iff _ _).mp (h.trans hw)

/-- The square of a number that fits an n-wide buffer fits an n²-wide one (R8). -/
theorem mul_self_fits {c : Build} {v : Nat} (h : v < 2 ^ (32 * c.wN)) : v * v < 2 ^ (32 * c.wN2) := by
  rw [show 32 * c.wN2 = 32 * c.wN + 32 * c.wN by unfold Build.wN2; omega, pow_add]
  exact Nat.mul_lt_mul'' h h

theorem fits_wide {c : Build} {v : Nat} (h : v < 2 ^ (32 * c.wN)) : v < 2 ^ (32 * c.wN2) :=
  lt_of_lt_of_le h (Nat.pow_le_pow_right (by norm_num) (by unfold Build.wN2; omega))

/-- A draw of as many bits as `n2` fits where `n2` does (R415). -/
theorem draw_fits {n2 v k : Nat} (hn2 : n2 < 2 ^ k) (hv : v < 2 ^ bitLength n2) : v < 2 ^ k :=
  hv.trans_le (Nat.pow_le_pow_right (by norm_num) ((bitLength_le_iff _ _).mpr hn2))

theorem gcd_lt_of_lt {a b k : Nat} (ha : a < k) (hb : b < k) : Nat.gcd a b < k := by
  rcases Nat.eq_zero_or_pos a with rfl | hpos
  · rwa [Nat.gcd_zero_left]
  · exact lt_of_le_of_lt (Nat.gcd_le_left b hpos) ha

/-! STATUS while a command runs -/

/-- No outcome is reported (R105). -/
abbrev Silent (st : Status) : Prop := st.done = false ∧ st.err = false ∧ st.errCode = .none

theorem oneOutcome_of_silent {s : State} (h : Silent s.status) : OneOutcome s := by
  obtain ⟨hdone, herr, hcode⟩ := h
  simp [OneOutcome, hdone, herr, hcode]

theorem oneOutcome_idle {s : State} (hidle : s.fsm = .idle) (hone : ¬(s.status.done = true ∧ s.status.err = true))
    (hcode : s.status.err = true ↔ s.status.errCode ≠ .none) : OneOutcome s :=
  ⟨hone, hcode, fun hbusy => absurd hidle ((busy_iff s).mp hbusy)⟩

theorem oneOutcome_raiseError {code : ErrCode} (hcode : code ≠ .none) (s : State) : OneOutcome (raiseError code s) :=
  oneOutcome_idle rfl (by simp) (by simpa using hcode)

theorem oneOutcome_complete (s : State) : OneOutcome (complete s) := oneOutcome_idle rfl (by simp) (by simp)

theorem Inv.silent {s : State} (h : Inv s) (hbusy : s.fsm ≠ .idle) : Silent s.status := by
  obtain ⟨-, hcode, hrun⟩ := h.outcome
  obtain ⟨hdone, herr⟩ := hrun ((busy_iff s).mpr hbusy)
  refine ⟨hdone, herr, ?_⟩
  simpa [herr] using hcode

/-! The clause of an FSM state, and its request -/

theorem Inv.progress_at {s : State} {f : FsmState} (h : Inv s) (hf : s.fsm = f) : Progress { s with fsm := f } := by
  subst hf; exact h.progress

theorem Inv.req_at {s : State} {f : FsmState} (h : Inv s) (hf : s.fsm = f) : s.req = requestFor f s := by
  subst hf; exact h.request

theorem progress_idle {s : State} (h : s.fsm = .idle) : Progress s := by
  unfold Progress; rw [h]; trivial

/-- The states KEYGEN passes through. -/
abbrev FsmState.IsKeygen (f : FsmState) : Prop := f ≠ .idle ∧ f ≠ .decExp ∧ f ≠ .decL ∧ f ≠ .decMul

theorem kgClean_of_progress {s : State} (hk : s.fsm.IsKeygen) (h : Progress s) : KgClean s := by
  obtain ⟨hidle, hexp, hl, hmul⟩ := hk
  unfold Progress at h
  split at h
  case h_1 hf => exact absurd hf hidle
  case h_2 => exact h
  case h_14 hf => exact absurd hf hexp
  case h_15 hf => exact absurd hf hl
  case h_16 hf => exact absurd hf hmul
  -- Every later clause of KEYGEN carries KgSize, and with it KgClean.
  all_goals tauto

/-! While KEYGEN runs: nothing is committed, so only the widths and the FSM state's clause are left to show -/

/-- What KEYGEN acceptance established and no step of KEYGEN touches (R400). It does not speak of the buffers. -/
def KgFrame (s : State) : Prop := s.build.Legal ∧ SizesMatch s ∧ Silent s.status ∧ KgClean s

theorem Inv.kgFrame {s : State} {f : FsmState} (h : Inv s) (hf : s.fsm = f) (hk : f.IsKeygen) : KgFrame s := by
  subst hf
  exact ⟨h.legal, h.sizes, h.silent hk.1, kgClean_of_progress hk h.progress⟩

theorem inv_enter_keygen {f : FsmState} {s : State} (frame : KgFrame s) (bufs : BufsFit s.build s.buf)
    (hidden : HiddenFits s.build s.hid) (progress : Progress (enter f s)) : Inv (enter f s) := by
  obtain ⟨hlegal, hsizes, hsilent, hclean⟩ := frame
  obtain ⟨hpub, hpriv, hresult, -, hnbits⟩ := hclean
  exact
    { legal := hlegal
      widths := (widths_iff _).mpr ⟨bufs, hidden⟩
      outcome := oneOutcome_of_silent hsilent
      sizes := hsizes
      request := rfl
      modulus := fun h => absurd hnbits h
      pubKey := fun h => absurd (hpub.symm.trans h) (by decide)
      privKey := fun h => absurd (hpriv.symm.trans h) (by decide)
      result := fun h => absurd (hresult.symm.trans h) (by decide)
      progress := progress }

/-! Block sizes -/

/-- NBITS, PTBS and CTBS hold the sizes of a modulus of at most KB_MAX bits without truncation (R119 to R121). -/
theorem setBlockSizes_toNat {s : State} (hc : s.build.Legal) (hn : bitLength s.buf.n ≤ s.build.kbMax) :
    (setBlockSizes s).regs.nbits.toNat = bitLength s.buf.n
    ∧ (setBlockSizes s).regs.ptbs.toNat = ptbsOf (bitLength s.buf.n)
    ∧ (setBlockSizes s).regs.ctbs.toNat = ctbsOf (bitLength s.buf.n) := by
  obtain ⟨-, -, -, -, hmax, -⟩ := hc
  simp only [setBlockSizes_regs, BitVec.toNat_ofNat, ptbsOf, ctbsOf]
  omega

theorem sizesMatch_zero {s : State} (hnbits : s.regs.nbits = 0) (hptbs : s.regs.ptbs = 0) (hctbs : s.regs.ctbs = 0) :
    SizesMatch s := by
  simp [SizesMatch, hnbits, hptbs, hctbs, ptbsOf, ctbsOf]

theorem sizesMatch_setBlockSizes {s : State} (hc : s.build.Legal) (hn : bitLength s.buf.n ≤ s.build.kbMax) :
    SizesMatch (setBlockSizes s) := by
  obtain ⟨hnbits, hptbs, hctbs⟩ := setBlockSizes_toNat hc hn
  refine ⟨?_, ?_, ?_⟩
  · rw [hptbs, hnbits]
  · rw [hctbs, hnbits]
  · rw [hnbits]; exact hn

/-! Steps shared by several agents -/

/-- The model's own fields do not matter to the invariant. -/
theorem Inv.of_sameBlock {s t : State} (hsame : SameBlock s t) (h : Inv s) : Inv t := by
  obtain ⟨status, regs, buf, hid, fsm, req, build, inputs, bus, freeCtr⟩ := t
  obtain ⟨rfl, rfl, rfl, rfl, rfl, rfl, rfl⟩ := hsame
  exact { h with }

theorem inv_raiseError {s : State} (h : Inv s) {code : ErrCode} (hcode : code ≠ .none) : Inv (raiseError code s) :=
  { h with outcome := oneOutcome_raiseError hcode s, request := rfl, progress := trivial }

theorem inv_countPDraw {s : State} (h : Inv s) : Inv (countPDraw s) := { h with }

theorem inv_countGDraw {s : State} (h : Inv s) : Inv (countGDraw s) := { h with }

theorem inv_dropWrite {s : State} (h : Inv s) : Inv (dropWrite s) := { h with }

theorem inv_resetOf {c : Build} (hc : c.Legal) : Inv (.resetOf c) where
  legal := hc
  widths := (widths_iff _).mpr ⟨bufsFit_zero c, hiddenFits_zero c⟩
  outcome := oneOutcome_of_silent ⟨rfl, rfl, rfl⟩
  sizes := sizesMatch_zero rfl rfl rfl
  request := rfl
  modulus := fun h => absurd rfl h
  pubKey := fun h => by cases h
  privKey := fun h => by cases h
  result := fun h => by cases h
  progress := trivial

theorem inv_resetBlock {s : State} (h : Inv s) : Inv (resetBlock s) :=
  Inv.of_sameBlock (s := .resetOf s.build) ⟨rfl, rfl, rfl, rfl, rfl, rfl, rfl⟩ (inv_resetOf h.legal)


/-! A host access -/

theorem inv_bufWrite {s : State} (h : Inv s) (hidle : s.fsm = .idle) {b : Buf} (hb : b.hostWritable = true) {i : Nat}
    (hi : i < b.words s.build) (v : Word) : Inv (bufWrite b i v s) := by
  obtain ⟨hbufs, hhidden⟩ := (widths_iff s).mp h.widths
  have hwidths : Widths (bufWrite b i v s) := by
    rw [widths_iff, bufWrite, keySideEffects_build, keySideEffects_buf, keySideEffects_hid]
    exact ⟨bufsFit_set hbufs b (setWord_lt _ _ _ _ (hbufs b) hi), hhidden⟩
  have hprogress : Progress (bufWrite b i v s) := progress_idle (by rw [bufWrite, keySideEffects_fsm]; exact hidle)
  have hrequest : (bufWrite b i v s).req = requestFor (bufWrite b i v s).fsm (bufWrite b i v s) := by
    rw [bufWrite, keySideEffects_req, keySideEffects_fsm, hidle]; exact h.req_at hidle
  cases b with
  | n =>
    exact
      { h with
        widths := hwidths, request := hrequest, progress := hprogress
        sizes := sizesMatch_zero rfl rfl rfl
        modulus := fun hne => absurd rfl hne
        pubKey := fun hkey => by cases hkey
        privKey := fun hkey => by cases hkey
        result := fun hres => by cases hres }
  | g =>
    exact
      { h with
        widths := hwidths, request := hrequest, progress := hprogress
        pubKey := fun hkey => by cases hkey }
  | lambda | u =>
    exact
      { h with
        widths := hwidths, request := hrequest, progress := hprogress
        privKey := fun hkey => by cases hkey
        result := fun hres => by cases hres }
  | c | x => exact { h with widths := hwidths, request := hrequest, progress := hprogress }
  | n2 | m => cases hb

theorem inv_startDecrypt {s : State} {f : FsmState} (h : Inv s) (hprogress : Progress (startDecrypt f s)) :
    Inv (startDecrypt f s) :=
  { h with
    outcome := oneOutcome_of_silent ⟨rfl, rfl, rfl⟩
    request := rfl
    result := fun hres => by cases hres
    progress := hprogress }

theorem inv_accepted {i : Instr} {s t : State} (h : Inv s) (hacc : Accepted s i t) : Inv t := by
  obtain ⟨hbufs, hhidden⟩ := (widths_iff s).mp h.widths
  cases hacc with
  | nop => exact h
  | abort => exact h
  | clrstat => exact { h with outcome := oneOutcome_of_silent ⟨rfl, rfl, rfl⟩ }
  | zeroize =>
    exact
      { h with
        widths := (widths_iff _).mpr ⟨bufsFit_zero _, hiddenFits_zero _⟩
        outcome := oneOutcome_complete _
        sizes := sizesMatch_zero rfl rfl rfl
        request := rfl
        modulus := fun hne => absurd rfl hne
        pubKey := fun hkey => by cases hkey
        privKey := fun hkey => by cases hkey
        result := fun hres => by cases hres
        progress := trivial }
  | keygen =>
    exact inv_enter_keygen
      ⟨h.legal, sizesMatch_zero rfl rfl rfl, ⟨rfl, rfl, rfl⟩, rfl, rfl, rfl, rfl, rfl⟩ hbufs hhidden
      ⟨rfl, rfl, rfl, rfl, rfl⟩
  | decNoKey _ => exact inv_raiseError h (by decide)
  | decxNoKey _ => exact inv_raiseError h (by decide)
  | decxRange _ _ => exact inv_raiseError h (by decide)
  | loadprivRange _ => exact inv_raiseError h (by decide)
  | dec key => exact inv_startDecrypt h ⟨key, rfl, rfl⟩
  | decx key range => exact inv_startDecrypt h ⟨⟨key, rfl, rfl⟩, range⟩
  | loadpriv low high =>
    have hmod : Modulus (loadprivCommitted s) := ⟨low, high, rfl, (setBlockSizes_toNat h.legal high).1⟩
    exact
      { h with
        widths := (widths_iff _).mpr
          ⟨bufsFit_set hbufs .n2 (mul_self_fits (hbufs .n)), hhidden⟩
        outcome := oneOutcome_complete _
        sizes := sizesMatch_setBlockSizes h.legal high
        request := rfl
        modulus := fun _ => hmod
        pubKey := fun hkey => by
          obtain ⟨hold, hn, hpq, hg, hgcd⟩ := h.pubKey hkey
          obtain ⟨-, -, hsq, -⟩ := hold
          rw [hsq] at hg hgcd
          exact ⟨hmod, hn, hpq, hg, hgcd⟩
        privKey := fun _ => hmod
        result := fun hres => by cases hres
        progress := trivial }

theorem inv_exec {i : Instr} {s t : State} (h : Inv s) (hexec : exec i s = .next t) : Inv t := by
  rcases exec_next hexec with ⟨-, -, rfl⟩ | ⟨-, -, rfl⟩ | ⟨-, hacc⟩
  · exact inv_dropWrite h
  · exact inv_raiseError h (by decide)
  · exact inv_accepted h hacc

theorem inv_hostEffect {s t : State} (h : Inv s) (heff : HostEffect s t) : Inv t := by
  cases heff with
  | nothing => exact h
  | dropped _ => exact inv_dropWrite h
  | keybits idle _ | certainty idle _ => exact { h with progress := progress_idle ((not_busy_iff s).mp idle) }
  | irqEn v => exact { h with }
  | irqStat v => exact { h with }
  | buffer idle b i v writable inside => exact inv_bufWrite h ((not_busy_iff s).mp idle) writable inside v
  | command i t run => exact inv_exec h run
  | illegal _ => exact inv_raiseError h (by decide)

/-! The FSM's step -/

/-- The primes of a key have at least two bits (R401). -/
theorem two_le_primes {s : State} (h : KgPQ s) : 2 ≤ s.hid.p ∧ 2 ≤ s.hid.q := by
  obtain ⟨⟨⟨-, -, -, -, -, hkhalf, -⟩, hp⟩, hq, -⟩ := h
  have htwo : 2 ≤ 2 ^ (s.hid.khalf.toNat - 1) := Nat.le_self_pow (by omega) 2
  exact ⟨htwo.trans (two_pow_le_of_bitLength (by omega)), htwo.trans (two_pow_le_of_bitLength (by omega))⟩

/-- The product of the primes of a key has at most KB_MAX bits (R401, R413). -/
theorem bitLength_product_le {s : State} (h : KgPQ s) : bitLength (s.hid.p * s.hid.q) ≤ s.build.kbMax := by
  obtain ⟨⟨⟨-, -, -, -, -, -, hmax⟩, hp⟩, hq, -⟩ := h
  have hprod : s.hid.p * s.hid.q < 2 ^ (s.hid.khalf.toNat + s.hid.khalf.toNat) := by
    rw [pow_add]
    exact Nat.mul_lt_mul'' (hp ▸ lt_two_pow_bitLength _) (hq ▸ lt_two_pow_bitLength _)
  exact ((bitLength_le_iff _ _).mpr hprod).trans (by omega)

theorem prime_fits {s : State} {v : Nat} (h : KgSize s) (hv : bitLength v = s.hid.khalf.toNat) :
    v < 2 ^ (32 * s.build.wN) := by
  obtain ⟨-, -, -, -, -, -, hmax⟩ := h
  exact fits_of_bitLength_le (by omega)

/-- Half of the effective key size is at least 2, and its double fits KB_MAX (R401, R410). -/
theorem effectiveKeySize_half {c : Build} (hc : c.Legal) (kb : Word) :
    2 ≤ (effectiveKeySize c kb / 2).toNat ∧ 2 * (effectiveKeySize c kb / 2).toNat ≤ c.kbMax := by
  obtain ⟨hfour, -, hmin, hdef, hmax, -⟩ := hc
  have heff : c.kbMin ≤ (effectiveKeySize c kb).toNat ∧ (effectiveKeySize c kb).toNat ≤ c.kbMax := by
    unfold effectiveKeySize
    split
    case isTrue hin => simpa [keySizeInRange] using hin
    case isFalse => rw [BitVec.toNat_ofNat]; omega
  rw [BitVec.toNat_udiv, show (2 : Word).toNat = 2 from rfl]
  omega

theorem inv_internalStep {s t : State} (h : Inv s) (hstep : InternalStep s t) : Inv t := by
  obtain ⟨hbufs, hhidden⟩ := (widths_iff s).mp h.widths
  obtain ⟨hp, hq, ht, hlv⟩ := hhidden
  cases hstep with
  | none _ => exact h
  | kgClamp at_ =>
    have hclean : KgClean s := h.progress_at at_
    obtain ⟨hlow, hhigh⟩ := effectiveKeySize_half h.legal s.regs.keybits
    exact inv_enter_keygen (h.kgFrame at_ (by decide)) hbufs ⟨hp, hq, ht, hlv⟩
      ⟨hclean, rfl, rfl, rfl, rfl, hlow, hhigh⟩
  | kgN at_ =>
    have hpq : KgPQ s := h.progress_at at_
    have hn : s.hid.p * s.hid.q < 2 ^ (32 * s.build.wN) := fits_of_bitLength_le (bitLength_product_le hpq)
    exact inv_enter_keygen (h.kgFrame at_ (by decide))
      (bufsFit_set (bufsFit_set hbufs .n hn) .n2 (mul_self_fits hn)) ⟨hp, hq, ht, hlv⟩ ⟨hpq, rfl, rfl⟩
  | kgGl at_ low exact_ =>
    have hx : KgX s := h.progress_at at_
    have hlt : s.buf.x < s.buf.n * s.buf.n := by
      obtain ⟨⟨⟨⟨⟨-, -, hsq⟩, -⟩, hg⟩, -⟩, hval⟩ := hx
      rw [hval, ← hsq]
      exact modexp_lt _ _ _ (by omega)
    exact inv_enter_keygen (h.kgFrame at_ (by decide)) hbufs
      ⟨hp, hq, ht, (lFun_lt _ _ low hlt).trans (hbufs .n)⟩ ⟨hx, exact_, rfl⟩
  | kgGlError _ _ _ => exact inv_raiseError h (by decide)
  | kgDone at_ =>
    have hu : KgU s := h.progress_at at_
    obtain ⟨-, -, -, hclean⟩ := h.kgFrame at_ (by decide)
    obtain ⟨-, -, hresult, -, -⟩ := hclean
    obtain ⟨⟨⟨⟨⟨⟨⟨⟨hpq, hn, hsq⟩, -⟩, hg⟩, hgcd⟩, -⟩, -⟩, -⟩, -⟩ := hu
    have hbits : bitLength s.buf.n ≤ s.build.kbMax := hn ▸ bitLength_product_le hpq
    obtain ⟨htwo, hone⟩ := two_le_primes hpq
    have hmod : Modulus (setBlockSizes s) :=
      ⟨by rw [setBlockSizes_buf, hn]; nlinarith, hbits, hsq, (setBlockSizes_toNat h.legal hbits).1⟩
    exact
      { h with
        outcome := oneOutcome_complete _
        sizes := sizesMatch_setBlockSizes h.legal hbits
        request := rfl
        modulus := fun _ => hmod
        pubKey := fun _ => ⟨hmod, hn, hpq.2.2, hg, hgcd⟩
        privKey := fun _ => hmod
        result := fun hres => absurd (hresult.symm.trans hres) (by decide)
        progress := trivial }
  | decL at_ low exact_ =>
    have hx : DecX s := h.progress_at at_
    obtain ⟨⟨hkey, hresult, -⟩, hlt⟩ := id hx
    obtain ⟨-, -, hsq, -⟩ := h.privKey hkey
    exact
      { h with
        widths := (widths_iff _).mpr ⟨hbufs, hp, hq, ht, (lFun_lt _ _ low (hsq ▸ hlt)).trans (hbufs .n)⟩
        outcome := oneOutcome_of_silent (h.silent (by simp [at_]))
        request := rfl
        result := fun hres => absurd (hresult.symm.trans hres) (by decide)
        progress := ⟨hx, exact_, rfl⟩ }
  | decLError _ _ _ => exact inv_raiseError h (by decide)
  | decMul at_ low =>
    have hlv' : DecLv s := h.progress_at at_
    obtain ⟨⟨⟨hkey, -, -⟩, -⟩, -⟩ := hlv'
    exact
      { h with
        widths := (widths_iff _).mpr
          ⟨bufsFit_set hbufs .m ((Nat.mod_lt _ low).trans (hbufs .n)), hp, hq, ht, hlv⟩
        outcome := oneOutcome_complete _
        request := rfl
        result := fun _ => ⟨hkey, rfl, rfl⟩
        progress := trivial }

/-! The service's step -/

theorem serviceAnswer_modexp {d b e m v : Nat} (h : serviceAnswer d (.modexp b e m) = some v) :
    1 ≤ m ∧ v = modexp b e m := by
  simp only [serviceAnswer] at h
  split at h
  · cases h
  · cases h; exact ⟨by omega, rfl⟩

theorem serviceAnswer_modinv {d a m v : Nat} (h : serviceAnswer d (.modinv a m) = some v) :
    1 ≤ m ∧ v = modinv a m := by
  simp only [serviceAnswer] at h
  split at h
  · cases h
  · cases h; exact ⟨by omega, rfl⟩

/-- In a good state the answer is the one to the request of the FSM state (R140). -/
theorem Inv.answer_at {s : State} {f : FsmState} {r r' : Request} {d v : Nat} (h : Inv s) (hf : s.fsm = f)
    (hr : s.req = some r) (hv : serviceAnswer d r = some v) (hfor : requestFor f s = some r') :
    serviceAnswer d r' = some v := by
  have heq : some r = some r' := by rw [← hr, ← hfor]; exact h.req_at hf
  cases heq; exact hv

/-- The GCD answer of KG_LGCD, and that it fits T (R414). -/
theorem kgLgcd_answer {s : State} {r : Request} {d v : Nat} (h : Inv s) (at_ : s.fsm = .kgLgcd) (hr : s.req = some r)
    (hv : serviceAnswer d r = some v) :
    Nat.gcd (s.hid.p - 1) (s.hid.q - 1) = v ∧ v < 2 ^ (32 * s.build.wN2) := by
  have hval : Nat.gcd (s.hid.p - 1) (s.hid.q - 1) = v := Option.some.inj (h.answer_at at_ hr hv rfl)
  obtain ⟨-, hp, hq, -, -⟩ := (widths_iff s).mp h.widths
  exact ⟨hval, fits_wide (hval ▸ gcd_lt_of_lt ((Nat.sub_le _ _).trans_lt hp) ((Nat.sub_le _ _).trans_lt hq))⟩

/-- The GCD answer of KG_GCOP, and that it fits T (R417). -/
theorem kgGcop_answer {s : State} {r : Request} {d v : Nat} (h : Inv s) (at_ : s.fsm = .kgGcop) (hr : s.req = some r)
    (hv : serviceAnswer d r = some v) : Nat.gcd s.buf.g s.buf.n2 = v ∧ v < 2 ^ (32 * s.build.wN2) := by
  have hval : Nat.gcd s.buf.g s.buf.n2 = v := Option.some.inj (h.answer_at at_ hr hv rfl)
  obtain ⟨hbufs, -⟩ := (widths_iff s).mp h.widths
  exact ⟨hval, hval ▸ gcd_lt_of_lt (hbufs .g) (hbufs .n2)⟩

/-- The GCD answer of KG_GLGCD, and that it fits T (R419). -/
theorem kgGlgcd_answer {s : State} {r : Request} {d v : Nat} (h : Inv s) (at_ : s.fsm = .kgGlgcd)
    (hr : s.req = some r) (hv : serviceAnswer d r = some v) :
    Nat.gcd s.hid.lv s.buf.n = v ∧ v < 2 ^ (32 * s.build.wN2) := by
  have hval : Nat.gcd s.hid.lv s.buf.n = v := Option.some.inj (h.answer_at at_ hr hv rfl)
  obtain ⟨hbufs, -, -, -, hlv⟩ := (widths_iff s).mp h.widths
  exact ⟨hval, fits_wide (hval ▸ gcd_lt_of_lt hlv (hbufs .n))⟩

/-- The quotient KG_LGCD stores as LAMBDA is no larger than the modulus (R414). -/
theorem lambda_le_modulus {s : State} (h : KgN s) (v : Nat) : (s.hid.p - 1) * (s.hid.q - 1) / v ≤ s.buf.n := by
  obtain ⟨-, hn, -⟩ := h
  rw [hn]
  exact (Nat.div_le_self _ _).trans (Nat.mul_le_mul (Nat.sub_le _ _) (Nat.sub_le _ _))

theorem inv_responseStep {s t : State} {r : Request} {d v : Nat} (h : Inv s) (hr : s.req = some r)
    (hv : serviceAnswer d r = some v) (hstep : ResponseStep v s t) : Inv t := by
  obtain ⟨hbufs, hhidden⟩ := (widths_iff s).mp h.widths
  obtain ⟨hp, hq, ht, hlv⟩ := id hhidden
  cases hstep with
  | none _ => exact h
  | kgPgenError _ _ => exact inv_raiseError (inv_countPDraw h) (by decide)
  | kgQgenError _ _ => exact inv_raiseError (inv_countPDraw h) (by decide)
  | kgGdrawError _ _ => exact inv_raiseError (inv_countGDraw h) (by decide)
  | kgPgen at_ good =>
    have hsize : KgSize s := h.progress_at at_
    exact inv_enter_keygen (h.kgFrame at_ (by decide)) hbufs ⟨prime_fits hsize good, hq, ht, hlv⟩ ⟨hsize, good⟩
  | kgQgenAgain at_ good same =>
    have hkp : KgP s := h.progress_at at_
    exact inv_enter_keygen (h.kgFrame at_ (by decide)) hbufs ⟨hp, prime_fits hkp.1 good, ht, hlv⟩ hkp
  | kgQgen at_ good differ =>
    have hkp : KgP s := h.progress_at at_
    exact inv_enter_keygen (h.kgFrame at_ (by decide)) hbufs ⟨hp, prime_fits hkp.1 good, ht, hlv⟩
      ⟨hkp, good, differ.symm⟩
  | kgLgcd at_ lowP lowQ low =>
    have hn : KgN s := h.progress_at at_
    obtain ⟨hval, hfit⟩ := kgLgcd_answer h at_ hr hv
    exact inv_enter_keygen (h.kgFrame at_ (by decide))
      (bufsFit_set hbufs .lambda ((lambda_le_modulus hn v).trans_lt (hbufs .n))) ⟨hp, hq, hfit, hlv⟩
      ⟨hn, by subst hval; rfl⟩
  | kgGdrawAgain at_ good high =>
    have hlambda : KgLambda s := h.progress_at at_
    exact inv_enter_keygen (h.kgFrame at_ (by decide)) (bufsFit_set hbufs .g (draw_fits (hbufs .n2) good)) hhidden
      hlambda
  | kgGdraw at_ good inside =>
    have hlambda : KgLambda s := h.progress_at at_
    exact inv_enter_keygen (h.kgFrame at_ (by decide)) (bufsFit_set hbufs .g (inside.trans (hbufs .n2))) hhidden
      ⟨hlambda, inside⟩
  | kgGcopAgain at_ bad =>
    have hg : KgG s := h.progress_at at_
    obtain ⟨-, hfit⟩ := kgGcop_answer h at_ hr hv
    exact inv_enter_keygen (h.kgFrame at_ (by decide)) hbufs ⟨hp, hq, hfit, hlv⟩ hg.1
  | kgGcop at_ good =>
    have hg : KgG s := h.progress_at at_
    obtain ⟨hval, hfit⟩ := kgGcop_answer h at_ hr hv
    exact inv_enter_keygen (h.kgFrame at_ (by decide)) hbufs ⟨hp, hq, hfit, hlv⟩ ⟨hg, hval.trans good⟩
  | kgGexp at_ =>
    have hg : KgGCoprime s := h.progress_at at_
    obtain ⟨hn2, hval⟩ := serviceAnswer_modexp (h.answer_at at_ hr hv rfl)
    exact inv_enter_keygen (h.kgFrame at_ (by decide))
      (bufsFit_set hbufs .x (hval ▸ (modexp_lt _ _ _ hn2).trans (hbufs .n2))) hhidden ⟨hg, hval⟩
  | kgGlgcdAgain at_ bad =>
    have hl : KgLv s := h.progress_at at_
    obtain ⟨-, hfit⟩ := kgGlgcd_answer h at_ hr hv
    obtain ⟨⟨⟨⟨hlambda, -⟩, -⟩, -⟩, -⟩ := hl
    exact inv_enter_keygen (h.kgFrame at_ (by decide)) hbufs ⟨hp, hq, hfit, hlv⟩ hlambda
  | kgGlgcd at_ good =>
    have hl : KgLv s := h.progress_at at_
    obtain ⟨hval, hfit⟩ := kgGlgcd_answer h at_ hr hv
    exact inv_enter_keygen (h.kgFrame at_ (by decide)) hbufs ⟨hp, hq, hfit, hlv⟩ ⟨hl, hval.trans good⟩
  | kgU at_ =>
    have hl : KgLvCoprime s := h.progress_at at_
    obtain ⟨hn, hval⟩ := serviceAnswer_modinv (h.answer_at at_ hr hv rfl)
    exact inv_enter_keygen (h.kgFrame at_ (by decide))
      (bufsFit_set hbufs .u (hval ▸ (modinv_lt _ _ hn).trans (hbufs .n))) hhidden ⟨hl, hval⟩
  | decExp at_ =>
    have hrun : DecRunning s := h.progress_at at_
    obtain ⟨hn2, hval⟩ := serviceAnswer_modexp (h.answer_at at_ hr hv rfl)
    have hlt : v < s.buf.n2 := hval ▸ modexp_lt _ _ _ hn2
    exact
      { h with
        widths := (widths_iff _).mpr ⟨bufsFit_set hbufs .x (hlt.trans (hbufs .n2)), hhidden⟩
        outcome := oneOutcome_of_silent (h.silent (by simp [at_]))
        request := rfl
        progress := ⟨hrun, hlt⟩ }

theorem inv_fsmStep {s t : State} (h : Inv s) (hstep : fsmStep s = .next t) : Inv t :=
  inv_internalStep h (fsmStep_next hstep)

theorem inv_serviceStep {s t : State} (d : Nat) (h : Inv s) (hstep : serviceStep d s = .next t) : Inv t := by
  rcases serviceStep_next hstep with ⟨-, rfl⟩ | ⟨r, v, hr, hv, hdeliver⟩
  · exact h
  · exact inv_responseStep h hr hv (deliver_next hdeliver)

/-- Settles O53, one agent at a time: the host, the FSM, the service, and reset. -/
theorem everyStepKeepsTheInvariant : Obligations.EveryStepKeepsTheInvariant := fun _ _ =>
  step_keeps Inv.of_sameBlock inv_hostEffect inv_fsmStep inv_serviceStep inv_resetBlock

end Sys2Proof.Machine
end

section
/-! SUPPORT. Which results are next states, and why no step of a good state stops (R10, R12 to R14, R401). -/

namespace Sys2Proof.Machine

/-- The result is a next state: neither a fault nor a refusal. -/
abbrev Answers (r : Result) : Prop := ∃ t, r = .next t

theorem answers_next (s : State) : Answers (.next s) := ⟨s, rfl⟩

theorem answers_ite {p : Prop} [Decidable p] {r₁ r₂ : Result} (h₁ : Answers r₁) (h₂ : Answers r₂) :
    Answers (if p then r₁ else r₂) := by
  split
  · exact h₁
  · exact h₂

theorem answers_ifIdle {s : State} {k : State → Result} (h : ∀ s, Answers (k s)) : Answers (ifIdle s k) :=
  answers_ite (answers_next _) (h s)

theorem answers_whenDefined {p : Bool} {r : Result} (hp : p = true) (h : Answers r) : Answers (whenDefined p r) := by
  subst hp; exact h

/-! The host -/

theorem answers_exec (i : Instr) (s : State) : Answers (exec i s) := by
  cases i with
  | nop => exact answers_ifIdle fun _ => answers_next _
  | keygen => exact answers_ifIdle fun _ => answers_next _
  | dec => exact answers_ifIdle fun _ => answers_ite (answers_next _) (answers_next _)
  | decx =>
    exact answers_ifIdle fun _ => answers_ite (answers_next _) (answers_ite (answers_next _) (answers_next _))
  | loadpriv => exact answers_ifIdle fun _ => answers_ite (answers_next _) (answers_next _)
  | abort => exact answers_ite (answers_next _) (answers_next _)
  | clrstat => exact answers_ifIdle fun _ => answers_next _
  | zeroize => exact answers_ifIdle fun _ => answers_next _

theorem answers_cmdWrite (v : Word) (s : State) : Answers (cmdWrite v s) := by
  unfold cmdWrite
  split
  · exact answers_exec _ s
  · exact answers_ifIdle fun _ => answers_next _

theorem answers_regWrite (r : Reg) (v : Word) (s : State) : Answers (regWrite r v s) := by
  cases r with
  | cmd => exact answers_cmdWrite v s
  | keybits => exact answers_ifIdle fun _ => answers_next _
  | certainty => exact answers_ifIdle fun _ => answers_next _
  | _ => exact answers_next _

theorem answers_busWrite (off : Nat) (v : Word) (s : State) : Answers (busWrite off v s) := by
  cases hreg : regionOf s.build off with
  | reg r => rw [busWrite_reg hreg]; exact answers_regWrite r v s
  | buf b i => rw [busWrite_buf hreg]; exact answers_ite (answers_ifIdle fun _ => answers_next _) (answers_next _)
  | reserved => rw [busWrite_reserved hreg]; exact answers_next _

/-- The offset a host access names. -/
def Access.offset : Access → Nat
  | .read off _ => off
  | .write off _ _ => off

theorem window_of_nextInWindow {s : State} {a : Access} {rest : List Event} (hin : s.inputs = .host a :: rest)
    (h : nextInWindow s = true) : a.offset < Config.window := by
  cases a with
  | read off size => simpa [nextInWindow, hin, Access.offset] using h
  | write off size v => simpa [nextInWindow, hin, Access.offset] using h

/-- A host access inside the window is answered (R200). -/
theorem answers_hostAccess {a : Access} (h : a.offset < Config.window) (s : State) : Answers (hostAccess a s) := by
  cases a with
  | read off size =>
    have hoff : ¬Config.window ≤ off := not_le.mpr h
    simp only [hostAccess, if_neg hoff]
    exact answers_ite (answers_next _) (answers_next _)
  | write off size v =>
    have hoff : ¬Config.window ≤ off := not_le.mpr h
    simp only [hostAccess, if_neg hoff]
    exact answers_ite (answers_busWrite off v _) (answers_next _)

/-! The FSM -/

/-- The modulus of a key under generation is not 0 (R401, R413). -/
theorem one_le_modulus_of_kgN {s : State} (h : KgN s) : 1 ≤ s.buf.n := by
  obtain ⟨hpq, hn, -⟩ := h
  obtain ⟨hp, hq⟩ := two_le_primes hpq
  rw [hn]
  exact Nat.mul_pos (by omega) (by omega)

theorem Inv.modulus_of_decRunning {s : State} (h : Inv s) (hrun : DecRunning s) : 2 ≤ s.buf.n := by
  obtain ⟨hkey, -, -⟩ := hrun
  obtain ⟨hn, -, -, -⟩ := h.privKey hkey
  exact hn

theorem answers_fsmStep {s : State} (h : Inv s) : Answers (fsmStep s) := by
  unfold fsmStep
  split
  case h_10 at_ =>
    have hx : KgX s := h.progress_at at_
    obtain ⟨⟨⟨⟨hn, -⟩, -⟩, -⟩, -⟩ := hx
    have hlow := one_le_modulus_of_kgN hn
    exact answers_whenDefined (by simpa using hlow) (answers_ite (answers_next _) (answers_next _))
  case h_15 at_ =>
    have hx : DecX s := h.progress_at at_
    have hlow := h.modulus_of_decRunning hx.1
    exact answers_whenDefined (decide_eq_true (by omega)) (answers_ite (answers_next _) (answers_next _))
  case h_16 at_ =>
    have hl : DecLv s := h.progress_at at_
    have hlow := h.modulus_of_decRunning hl.1.1
    exact answers_whenDefined (decide_eq_true (by omega)) (answers_next _)
  all_goals exact answers_next _

/-! The service -/

theorem requestFor_eq_modexp {f : FsmState} {s : State} {b e m : Nat} (h : requestFor f s = some (.modexp b e m)) :
    (f = .kgGexp ∨ f = .decExp) ∧ m = s.buf.n2 := by
  cases f <;> simp_all [requestFor]

theorem requestFor_eq_modinv {f : FsmState} {s : State} {a m : Nat} (h : requestFor f s = some (.modinv a m)) :
    f = .kgU ∧ a = s.hid.lv ∧ m = s.buf.n := by
  cases f <;> simp_all [requestFor]

/-- The outstanding request of a good state is inside the domain of R14. -/
theorem Inv.answer_defined {s : State} {r : Request} (h : Inv s) (hr : s.req = some r) (d : Nat) :
    ∃ v, serviceAnswer d r = some v := by
  have hfor : requestFor s.fsm s = some r := h.request.symm.trans hr
  refine serviceAnswer_defined d r (fun b e m hreq => ?_) (fun a m hreq => ?_)
  · obtain ⟨hstate, rfl⟩ := requestFor_eq_modexp (hreq ▸ hfor)
    rcases hstate with at_ | at_
    · have hg : KgGCoprime s := h.progress_at at_
      obtain ⟨⟨-, hlt⟩, -⟩ := hg
      omega
    · have hrun : DecRunning s := h.progress_at at_
      obtain ⟨hn, -, hsq, -⟩ := h.privKey hrun.1
      rw [hsq]
      exact Nat.mul_ne_zero (by omega) (by omega)
  · obtain ⟨at_, rfl, rfl⟩ := requestFor_eq_modinv (hreq ▸ hfor)
    have hl : KgLvCoprime s := h.progress_at at_
    obtain ⟨⟨⟨⟨⟨⟨hn, -⟩, -⟩, -⟩, -⟩, -⟩, hgcd⟩ := hl
    have hlow := one_le_modulus_of_kgN hn
    exact ⟨by omega, hgcd⟩

theorem answers_kgLgcdResp {s : State} {r : Request} {d v : Nat} (h : Inv s) (at_ : s.fsm = .kgLgcd)
    (hr : s.req = some r) (hv : serviceAnswer d r = some v) : Answers (kgLgcdResp v s) := by
  have hn : KgN s := h.progress_at at_
  obtain ⟨hp, hq⟩ := two_le_primes hn.1
  obtain ⟨hval, -⟩ := kgLgcd_answer h at_ hr hv
  have hpos : 1 ≤ v := hval ▸ Nat.gcd_pos_of_pos_left _ (by omega)
  have hdef : 1 ≤ s.hid.p ∧ 1 ≤ s.hid.q := ⟨by omega, by omega⟩
  exact answers_whenDefined (by simp [hpos, hdef]) (answers_next _)

theorem answers_deliver {s : State} {r : Request} {d v : Nat} (h : Inv s) (hr : s.req = some r)
    (hv : serviceAnswer d r = some v) : Answers (deliver v s) := by
  unfold deliver
  split
  case h_3 => exact answers_ite (answers_next _) (answers_next _)
  case h_4 => exact answers_ite (answers_next _) (answers_next _)
  case h_6 at_ => exact answers_kgLgcdResp h at_ hr hv
  case h_7 => exact answers_ite (answers_next _) (answers_next _)
  all_goals exact answers_next _

theorem answers_serviceStep {s : State} (h : Inv s) (d : Nat) : Answers (serviceStep d s) := by
  unfold serviceStep
  split
  · exact answers_next _
  · next r hr =>
    obtain ⟨v, hv⟩ := h.answer_defined hr d
    rw [hv]
    exact answers_deliver h hr hv

/-! A whole step -/

theorem answers_unscheduled {s : State} (h : Inv s) : Answers (unscheduled s) := by
  unfold unscheduled
  split
  · exact answers_next _
  · exact answers_fsmStep h
  · exact answers_ite (answers_serviceStep (h.of_sameBlock (.of_freeCtr s _)) _) (answers_next _)

/-- Settles O54: without an event the block's own agents have a step, and every event but an access outside the window
is answered. -/
theorem goodStatesAlwaysStep : Obligations.GoodStatesAlwaysStep := by
  intro s h hwin
  cases hin : s.inputs with
  | nil => rw [step_silent hin]; exact answers_unscheduled h
  | cons e rest =>
    have h' : Inv { s with inputs := rest } := h.of_sameBlock (.of_inputs s rest)
    rw [step_event hin]
    cases e with
    | host a => exact answers_hostAccess (window_of_nextInWindow hin hwin) _
    | fsm => exact answers_fsmStep h'
    | respond d => exact answers_serviceStep h' d
    | lateRespond d => exact answers_next _
    | reset => exact answers_next _

/-! Whose step an event is -/

theorem fsmStep_of_not_internal {s : State} (h : s.fsm.kind ≠ .internal) : fsmStep s = .next s := by
  unfold fsmStep
  split
  case h_2 hf | h_5 hf | h_10 hf | h_13 hf | h_15 hf | h_16 hf => rw [hf] at h; exact absurd rfl h
  all_goals rfl

theorem serviceStep_of_no_request {s : State} (h : s.req = none) (d : Nat) : serviceStep d s = .next s := by
  unfold serviceStep; rw [h]

theorem unscheduled_idle {s : State} (h : s.fsm = .idle) : unscheduled s = .next s := by
  unfold unscheduled; rw [h]; rfl

theorem unscheduled_internal {s : State} (h : s.fsm.kind = .internal) : unscheduled s = fsmStep s := by
  unfold unscheduled; rw [h]

theorem unscheduled_service {s : State} (h : s.fsm.kind = .service) :
    unscheduled s = .next { s with freeCtr := s.freeCtr + 1 }
      ∨ ∃ d, unscheduled s = serviceStep d { s with freeCtr := s.freeCtr + 1 } := by
  unfold unscheduled; rw [h]
  cases Config.freeServiceTurn s.freeCtr with
  | true => exact .inr ⟨_, rfl⟩
  | false => exact .inl rfl

/-- Settles O19, clause by clause: the queued events, the turns that change nothing, and the empty queue. -/
theorem eachAgentTakesItsOwnStep : Obligations.EachAgentTakesItsOwnStep := by
  refine ⟨?_, ?_, ?_, ?_, ?_, ?_, ?_, ?_⟩
  · exact fun s rest hin => step_event hin
  · exact fun s d rest hin => step_event hin
  · exact fun s d rest hin => step_event hin
  · exact fun s hkind => fsmStep_of_not_internal hkind
  · exact fun s d hreq => serviceStep_of_no_request hreq d
  · exact fun s hin hidle => (step_silent hin).trans (unscheduled_idle hidle)
  · exact fun s hin hkind => (step_silent hin).trans (unscheduled_internal hkind)
  · intro s hin hkind
    rw [step_silent hin]
    exact unscheduled_service hkind

end Sys2Proof.Machine
end

section
/-! SUPPORT. A host access as the next event: which words decode to a command (R302), where each access lands (R201),
and what an aligned access to a register or to a buffer word does (R205, R207). -/

namespace Sys2Proof.Machine

/-! Command words -/

theorem decodeOpc_toNat {opc : BitVec 8} {i : Instr} (h : decodeOpc opc = .ok i) :
    opc.toNat = (encode i).toNat := by
  unfold decodeOpc at h
  split at h
  case h_9 => cases h
  all_goals cases h; assumption

/-- Only the word of the opcode table decodes to a command (R302). -/
theorem eq_encode_of_decode {w : Word} {i : Instr} (h : decode w = .ok i) : w = encode i := by
  unfold decode at h
  split at h
  case isFalse => cases h
  case isTrue hrsv =>
    have hopc : w.toNat % 256 = (encode i).toNat := by simpa [cmdOpc] using decodeOpc_toNat h
    have hhigh : w.toNat / 256 % 2 ^ 24 = 0 := by
      simpa [cmdRsv, Nat.shiftRight_eq_div_pow] using congrArg BitVec.toNat hrsv
    have hlt := w.isLt
    exact BitVec.eq_of_toNat_eq (by omega)

/-! Offsets -/

theorem regAt_some {k : Nat} {r : Reg} (h : regAt k = some r) : r.offset = 4 * k := by
  unfold regAt at h
  split at h
  case h_16 => cases h
  all_goals cases h; rfl

/-- What the map calls a control register stands where R100 says. -/
theorem regionOf_eq_reg {c : Build} {off : Nat} {r : Reg} (h : regionOf c off = .reg r) (h4 : off % 4 = 0) :
    off = r.offset := by
  unfold regionOf at h
  split at h
  · split at h <;> cases h
  · split at h
    · next hr => cases h; rw [regAt_some hr]; omega
    · cases h

theorem accessLegal_iff (off size : Nat) : accessLegal off size = true ↔ size = 4 ∧ off % 4 = 0 := by
  simp [accessLegal]

theorem regOffset_inside (r : Reg) : r.offset < Config.window ∧ r.offset % 4 = 0 := by cases r <;> decide

theorem bufOffset_inside {c : Build} (hc : c.Legal) {b : Buf} {i : Nat} (hi : i < b.words c) :
    b.offset i < Config.window ∧ b.offset i % 4 = 0 := by
  have hwords := words_le hc b
  have hslot : b.slotIndex ≤ 8 := by cases b <;> decide
  unfold Buf.offset Config.slot Config.window
  omega

/-! An aligned access inside the window -/

/-- The state a queued write is performed in: it is off the queue, and acknowledged (log entries 1 and 3). -/
abbrev writeTaken (rest : List Event) (s : State) : State := { s with inputs := rest, bus := .writeDone }

theorem step_read {s : State} {off : Nat} {rest : List Event} (hin : s.inputs = .host (.read off 4) :: rest)
    (hoff : off < Config.window ∧ off % 4 = 0) : step s = .next (busRead off { s with inputs := rest }) := by
  obtain ⟨hwin, halign⟩ := hoff
  have hlegal : accessLegal off 4 = true := (accessLegal_iff off 4).mpr ⟨rfl, halign⟩
  rw [step_event hin]
  simp only [perform, hostAccess, if_neg (not_le.mpr hwin), if_pos hlegal]

theorem step_write {s : State} {off : Nat} {v : Word} {rest : List Event}
    (hin : s.inputs = .host (.write off 4 v) :: rest) (hoff : off < Config.window ∧ off % 4 = 0) :
    step s = busWrite off v (writeTaken rest s) := by
  obtain ⟨hwin, halign⟩ := hoff
  have hlegal : accessLegal off 4 = true := (accessLegal_iff off 4).mpr ⟨rfl, halign⟩
  rw [step_event hin]
  simp only [perform, hostAccess, if_neg (not_le.mpr hwin), if_pos hlegal]

theorem step_read_reg {s : State} {r : Reg} {rest : List Event} (hin : s.inputs = .host (.read r.offset 4) :: rest) :
    step s = .next { s with inputs := rest, bus := .readData (regWord s r) } := by
  rw [step_read hin (regOffset_inside r), busRead_reg (regionOf_regOffset _ r)]
  cases r <;> rfl

theorem step_write_reg {s : State} {r : Reg} {v : Word} {rest : List Event}
    (hin : s.inputs = .host (.write r.offset 4 v) :: rest) :
    step s = regWrite r v (writeTaken rest s) := by
  rw [step_write hin (regOffset_inside r), busWrite_reg (regionOf_regOffset _ r)]

theorem regWrite_keybits (v : Word) (s : State) :
    regWrite .keybits v s = ifIdle s fun s => .next { s with regs := { s.regs with keybits := v } } := rfl

theorem regWrite_certainty (v : Word) (s : State) :
    regWrite .certainty v s = ifIdle s fun s => .next { s with regs := { s.regs with certainty := v } } := rfl

theorem step_write_buf {s : State} {b : Buf} {i : Nat} {v : Word} {rest : List Event} (hc : s.build.Legal)
    (hw : b.hostWritable = true) (hi : i < b.words s.build)
    (hin : s.inputs = .host (.write (b.offset i) 4 v) :: rest) :
    step s = ifIdle (writeTaken rest s) fun s => .next (bufWrite b i v s) := by
  rw [step_write hin (bufOffset_inside hc hi), busWrite_buf (s := writeTaken rest s)
    (regionOf_bufOffset hc b i hi), if_pos hw]

end Sys2Proof.Machine
end

section
/-! SUPPORT. What the host reads and writes of the state (R100 to R132): STATUS, the control registers, the interrupt
registers, the buffers and the committed key, and the values after reset (R150). -/

namespace Sys2Proof.Machine

/-- Settles O38: the write runs the key side effects of its buffer. -/
theorem bufferWritesUncommitTheKey : Obligations.BufferWritesUncommitTheKey := by
  intro s b i v rest hc hidle hw hi hin
  refine ⟨_, (step_write_buf hc hw hi hin).trans (ifIdle_idle _ ((not_busy_iff _).mpr hidle)),
    keySideEffects_buf b _, ?_⟩
  cases b with
  | n2 | m => cases hw
  | n => simp [bufWrite, keySideEffects, Bufs.set]
  | g => simp [bufWrite, keySideEffects]
  | lambda | u => simp [bufWrite, keySideEffects]
  | c | x => simp [bufWrite, keySideEffects]

/-! The fields of a concatenation, counted from its low end -/

theorem getLsbD_append_above {n m i : Nat} {x : BitVec n} {y : BitVec m} {b : Bool} (h : x.getLsbD i = b) :
    (x ++ y).getLsbD (i + m) = b := by
  simp [BitVec.getLsbD_append, h]

theorem getLsbD_append_ofBool {n : Nat} (x : BitVec n) (b : Bool) : (x ++ BitVec.ofBool b).getLsbD 0 = b := by
  rw [BitVec.getLsbD_append]; simp

theorem extractLsb'_append_above {n m i k : Nat} {x : BitVec n} {y : BitVec m} {z : BitVec k}
    (h : x.extractLsb' i k = z) : (x ++ y).extractLsb' (i + m) k = z := by
  rw [BitVec.extractLsb'_append_eq_of_le (by omega), Nat.add_sub_cancel, h]

/-- Settles O39: the fields below a field are peeled off until it is the lowest. -/
theorem statusFieldsStandWhereTheTableSays : Obligations.StatusFieldsStandWhereTheTableSays := by
  intro s
  refine ⟨?busy, ?done, ?err, ?ovr, ?keyPub, ?keyPriv, ?resultValid, ?clamped, ?movf, ?bits15to9, ?errCode,
    ?bits23to20, ?state, ?bits31to29⟩
  case busy => exact (getLsbD_append_ofBool _ _).trans (by simp [State.busy, bne, Bool.beq_eq_decide_eq])
  case done | err | ovr | keyPub | keyPriv | resultValid | clamped | movf =>
    repeat refine getLsbD_append_above ?_
    exact getLsbD_append_ofBool _ _
  case bits15to9 | errCode | bits23to20 | state =>
    repeat refine extractLsb'_append_above ?_
    exact BitVec.extractLsb'_append_eq_right
  case bits31to29 =>
    repeat refine extractLsb'_append_above ?_
    exact BitVec.extractLsb'_zero

/-- The control registers in the order of their offsets (R100). -/
def controlRegs : List Reg :=
  [.id, .version, .params, .cmd, .status, .keybits, .certainty, .keybitsEff, .nbits, .ptbs, .ctbs, .irqEn, .irqStat,
    .pdrawCnt, .gdrawCnt]

/-- Settles O40: the table pairs the offset of each register with its word. -/
theorem controlRegistersReadAtTheirOffsets : Obligations.ControlRegistersReadAtTheirOffsets := by
  intro s rest off w hin hmem
  change (off, w) ∈ controlRegs.map fun r => (r.offset, regWord s r) at hmem
  obtain ⟨r, -, hr⟩ := List.mem_map.mp hmem
  cases hr
  exact step_read_reg hin

theorem irqLine_iff (s : State) :
    irqLine s = true ↔ ∃ i, i < 2 ∧ s.regs.irqStat.getLsbD i = true ∧ s.regs.irqEn.getLsbD i = true := by
  simp only [irqLine, Bool.or_eq_true, Bool.and_eq_true]
  constructor
  · rintro (h | h)
    · exact ⟨0, by decide, h⟩
    · exact ⟨1, by decide, h⟩
  · rintro ⟨i, hi, h⟩
    obtain rfl | rfl : i = 0 ∨ i = 1 := by omega
    · exact .inl h
    · exact .inr h

/-- Settles O45: both registers are written in every FSM state, and `irq` has one term for each source. -/
theorem interruptRegistersAndOutput : Obligations.InterruptRegistersAndOutput := by
  intro s v rest
  refine ⟨fun hin => step_write_reg (r := .irqEn) hin, fun hin => ?_, irqLine_iff s⟩
  refine ⟨_, step_write_reg (r := .irqStat) hin, fun i hi => ?_⟩
  simp [hi]

/-- Settles O46: all these writes stand behind the BUSY check. -/
theorem hostWritesWaitForTheCommand : Obligations.HostWritesWaitForTheCommand := by
  intro s off v rest hin
  refine ⟨fun hidle hoff => ?_, fun hidle hoff => ?_, fun hrun hoff => ?_⟩
  · subst hoff
    rw [step_write_reg (r := .keybits) hin, regWrite_keybits,
      ifIdle_idle (s := writeTaken rest s) _ ((not_busy_iff _).mpr hidle)]
  · subst hoff
    rw [step_write_reg (r := .certainty) hin, regWrite_certainty,
      ifIdle_idle (s := writeTaken rest s) _ ((not_busy_iff _).mpr hidle)]
  · have hbusy : (writeTaken rest s).busy = true := (busy_iff _).mpr hrun
    rcases hoff with rfl | rfl | ⟨b, i, hc, hw, hi, rfl⟩
    · rw [step_write_reg (r := .keybits) hin, regWrite_keybits, ifIdle_busy _ hbusy]; rfl
    · rw [step_write_reg (r := .certainty) hin, regWrite_certainty, ifIdle_busy _ hbusy]; rfl
    · rw [step_write_buf hc hw hi hin, ifIdle_busy _ hbusy]; rfl

/-- Settles O51: the reset block holds the table's values, and reset puts any block into that state. -/
theorem resetLeavesTheStatedValues : Obligations.ResetLeavesTheStatedValues := by
  refine ⟨⟨rfl, rfl, rfl, rfl, rfl, rfl, rfl, rfl, rfl, rfl, rfl⟩, fun s rest hin => ?_⟩
  exact ⟨_, step_event hin, rfl, rfl, rfl, rfl, rfl, rfl, rfl⟩

/-- Settles O52: `Inv` holds after reset for every legal build, and the default build is legal. -/
theorem resetIsAGoodState : Obligations.ResetIsAGoodState :=
  have hdefault : Build.default.Legal := by decide
  ⟨hdefault, inv_resetOf hdefault, fun _ hc => inv_resetOf hc⟩

end Sys2Proof.Machine
end

section
/-! SUPPORT. One step with the event that makes it, and what each agent's turn can change of the FSM state (R130,
R131), OVR (R109), the buffers (R126) and KEYBITS_EFF (R118). -/

namespace Sys2Proof.Machine

/-! The step, by the event that makes it -/

/-- What every access leaves alone that neither runs a command nor writes a buffer word: it may write KEYBITS,
CERTAINTY or an interrupt register, set OVR, or record ILLEGAL_CMD (R207, R210, R310). -/
structure SideEffect (s t : State) : Prop where
  build : t.build = s.build
  fsm : t.fsm = s.fsm
  buf : t.buf = s.buf
  keybitsEff : t.regs.keybitsEff = s.regs.keybitsEff
  ovr : s.status.ovr = true → t.status.ovr = true

/-- What a step does to the block `s₁` it finds, with the queue of the state `s` that names its event. -/
inductive StepEffect (s s₁ : State) : State → Prop
  | side {t : State} (effect : SideEffect s₁ t) : StepEffect s s₁ t
  | command {t : State} (i : Instr) (next : nextIsCommand s i = true) (run : exec i s₁ = .next t) : StepEffect s s₁ t
  | buffer (b : Buf) (i : Nat) (v : Word) (next : nextWritesWord s b i = true) (writable : b.hostWritable = true)
      (inside : i < b.words s₁.build) : StepEffect s s₁ (bufWrite b i v s₁)
  | fsm {t : State} (turn : InternalStep s₁ t) : StepEffect s s₁ t
  | service {t : State} (v : Nat) (turn : ResponseStep v s₁ t) : StepEffect s s₁ t
  | reset (next : nextIsReset s = true) : StepEffect s s₁ (resetBlock s₁)

theorem SideEffect.of_sameBlock {s t : State} (h : SameBlock s t) : SideEffect s t := by
  obtain ⟨hstatus, hregs, hbuf, -, hfsm, -, hbuild⟩ := h
  exact ⟨hbuild, hfsm, hbuf, by rw [hregs], by rw [hstatus]; exact id⟩

theorem SideEffect.refl (s : State) : SideEffect s s := .of_sameBlock (.refl s)

theorem sideEffect_dropWrite (s : State) : SideEffect s (dropWrite s) := ⟨rfl, rfl, rfl, rfl, fun _ => rfl⟩

theorem sideEffect_illegalCmd {s : State} (hidle : s.busy = false) : SideEffect s (raiseError .illegalCmd s) :=
  ⟨rfl, ((not_busy_iff s).mp hidle).symm, rfl, rfl, id⟩

/-- A write to any register but CMD has no more than a side effect (R207). -/
theorem sideEffect_regWrite {r : Reg} {v : Word} {s t : State} (hr : r ≠ .cmd) (h : regWrite r v s = .next t) :
    SideEffect s t := by
  cases r with
  | cmd => exact absurd rfl hr
  | keybits =>
    rw [regWrite_keybits] at h
    rcases ifIdle_next h with ⟨-, rfl⟩ | ⟨-, h⟩
    · exact sideEffect_dropWrite s
    · cases h; exact ⟨rfl, rfl, rfl, rfl, id⟩
  | certainty =>
    rw [regWrite_certainty] at h
    rcases ifIdle_next h with ⟨-, rfl⟩ | ⟨-, h⟩
    · exact sideEffect_dropWrite s
    · cases h; exact ⟨rfl, rfl, rfl, rfl, id⟩
  | irqEn | irqStat => cases h; exact ⟨rfl, rfl, rfl, rfl, id⟩
  | _ => cases h; exact .refl s

theorem nextIsCommand_of_inputs {s : State} {i : Instr} {rest : List Event}
    (hin : s.inputs = .host (.write 0x00C 4 (encode i)) :: rest) : nextIsCommand s i = true := by
  simp [nextIsCommand, hin]

theorem nextWritesWord_of_inputs {s : State} {b : Buf} {i : Nat} {v : Word} {rest : List Event}
    (hin : s.inputs = .host (.write (b.offset i) 4 v) :: rest) : nextWritesWord s b i = true := by
  simp [nextWritesWord, hin]

theorem nextIsReset_of_inputs {s : State} {rest : List Event} (hin : s.inputs = .reset :: rest) :
    nextIsReset s = true := by
  simp [nextIsReset, hin]

theorem stepEffect_cmdWrite {s s₁ t : State} {v : Word} {rest : List Event}
    (hin : s.inputs = .host (.write 0x00C 4 v) :: rest) (h : cmdWrite v s₁ = .next t) : StepEffect s s₁ t := by
  unfold cmdWrite at h
  split at h
  · next i hi =>
    cases eq_encode_of_decode hi
    exact .command i (nextIsCommand_of_inputs hin) h
  · rcases ifIdle_next h with ⟨-, rfl⟩ | ⟨hidle, h⟩
    · exact .side (sideEffect_dropWrite s₁)
    · cases h; exact .side (sideEffect_illegalCmd hidle)

theorem stepEffect_busWrite {s s₁ t : State} {off : Nat} {v : Word} {rest : List Event}
    (hin : s.inputs = .host (.write off 4 v) :: rest) (h4 : off % 4 = 0) (h : busWrite off v s₁ = .next t) :
    StepEffect s s₁ t := by
  cases hreg : regionOf s₁.build off with
  | reg r =>
    rw [busWrite_reg hreg] at h
    by_cases hr : r = .cmd
    · subst hr
      cases regionOf_eq_reg hreg h4
      exact stepEffect_cmdWrite hin h
    · exact .side (sideEffect_regWrite hr h)
  | buf b i =>
    obtain ⟨hi, hoff⟩ := regionOf_eq_buf hreg
    rw [busWrite_buf hreg] at h
    split at h
    · next hw =>
      rcases ifIdle_next h with ⟨-, rfl⟩ | ⟨-, h⟩
      · exact .side (sideEffect_dropWrite s₁)
      · cases h
        cases hoff h4
        exact .buffer b i v (nextWritesWord_of_inputs hin) hw hi
    · cases h; exact .side (.refl s₁)
  | reserved => rw [busWrite_reserved hreg] at h; cases h; exact .side (.refl s₁)

/-- Everything a host access can do, with the access that does it. -/
theorem stepEffect_hostAccess {s s₁ t : State} {a : Access} {rest : List Event} (hin : s.inputs = .host a :: rest)
    (h : hostAccess a s₁ = .next t) : ∃ s₂, SameBlock s₁ s₂ ∧ StepEffect s s₂ t := by
  unfold hostAccess at h
  split at h
  · split at h
    · cases h
    · split at h
      · cases h; exact ⟨_, busRead_sameBlock _ s₁, .side (.refl _)⟩
      · cases h; exact ⟨_, .of_bus s₁ _, .side (.refl _)⟩
  · split at h
    · cases h
    · split at h
      · next hlegal =>
        obtain ⟨rfl, h4⟩ := (accessLegal_iff _ _).mp hlegal
        exact ⟨_, .of_bus s₁ _, stepEffect_busWrite hin h4 h⟩
      · cases h; exact ⟨_, .of_bus s₁ _, .side (.refl _)⟩

theorem stepEffect_serviceStep {s s₁ t : State} {d : Nat} (h : serviceStep d s₁ = .next t) : StepEffect s s₁ t := by
  rcases serviceStep_next h with ⟨-, rfl⟩ | ⟨-, v, -, -, hdeliver⟩
  · exact .side (.refl _)
  · exact .service v (deliver_next hdeliver)

theorem stepEffect_unscheduled {s t : State} (h : unscheduled s = .next t) :
    ∃ s₁, SameBlock s s₁ ∧ StepEffect s s₁ t := by
  unfold unscheduled at h
  split at h
  · cases h; exact ⟨_, .refl _, .side (.refl _)⟩
  · exact ⟨_, .refl s, .fsm (fsmStep_next h)⟩
  · split at h
    · exact ⟨_, .of_freeCtr s _, stepEffect_serviceStep h⟩
    · cases h; exact ⟨_, .of_freeCtr s _, .side (.refl _)⟩

/-- Everything a step can do, with the event that does it. -/
theorem step_effect {s t : State} (h : step s = .next t) : ∃ s₁, SameBlock s s₁ ∧ StepEffect s s₁ t := by
  cases hin : s.inputs with
  | nil => rw [step_silent hin] at h; exact stepEffect_unscheduled h
  | cons e rest =>
    rw [step_event hin] at h
    cases e with
    | host a => exact stepEffect_hostAccess (s₁ := { s with inputs := rest }) hin h
    | fsm => exact ⟨_, .of_inputs s rest, .fsm (fsmStep_next h)⟩
    | respond d => exact ⟨_, .of_inputs s rest, stepEffect_serviceStep h⟩
    | lateRespond d => cases h; exact ⟨_, .of_inputs s rest, .side (.refl _)⟩
    | reset => cases h; exact ⟨_, .of_inputs s rest, .reset (nextIsReset_of_inputs hin)⟩

/-! OVR -/

theorem internalStep_ovr {s t : State} (h : InternalStep s t) : t.status.ovr = s.status.ovr := by
  cases h <;> rfl

theorem responseStep_ovr {v : Nat} {s t : State} (h : ResponseStep v s t) : t.status.ovr = s.status.ovr := by
  cases h <;> rfl

theorem keySideEffects_ovr (b : Buf) (s : State) : (keySideEffects b s).status.ovr = s.status.ovr := by
  cases b <;> rfl

theorem accepted_ovr {i : Instr} {s t : State} (h : Accepted s i t) (hi : i ≠ .clrstat) :
    t.status.ovr = s.status.ovr := by
  cases h with
  | clrstat => exact absurd rfl hi
  | _ => rfl

theorem exec_clears_ovr {i : Instr} {s t : State} (h : exec i s = .next t) (hs : s.status.ovr = true)
    (ht : t.status.ovr = false) : i = .clrstat ∧ s.fsm = .idle := by
  rcases exec_next h with ⟨-, -, rfl⟩ | ⟨-, -, rfl⟩ | ⟨hidle, hacc⟩
  · cases ht
  · rw [raiseError_status, hs] at ht; cases ht
  · refine ⟨?_, (not_busy_iff s).mp hidle⟩
    by_contra hi
    rw [accepted_ovr hacc hi, hs] at ht
    cases ht

/-- Settles O48: of all a step can be, only CLRSTAT in IDLE and reset turn OVR off. -/
theorem onlyClrstatAndResetClearOvr : Obligations.OnlyClrstatAndResetClearOvr := by
  intro s t h hs ht
  obtain ⟨s₁, ⟨hstatus, -, -, -, hfsm, -, -⟩, heffect⟩ := step_effect h
  rw [← hstatus] at hs
  cases heffect with
  | side effect => rw [effect.ovr hs] at ht; cases ht
  | command i next run =>
    obtain ⟨rfl, hidle⟩ := exec_clears_ovr run hs ht
    exact .inr ⟨next, hfsm ▸ hidle⟩
  | buffer b i v => rw [bufWrite, keySideEffects_ovr, hs] at ht; cases ht
  | fsm turn => rw [internalStep_ovr turn, hs] at ht; cases ht
  | service v turn => rw [responseStep_ovr turn, hs] at ht; cases ht
  | reset next => exact .inl next

/-! The FSM state -/

/-- The moves the state rules name from one running state to another (R410 to R420, R510, R520). -/
abbrev runningMoves : List (FsmState × FsmState) :=
  [(.kgClamp, .kgPgen), (.kgPgen, .kgQgen), (.kgQgen, .kgN), (.kgN, .kgLgcd), (.kgLgcd, .kgGdraw),
    (.kgGdraw, .kgGcop), (.kgGcop, .kgGdraw), (.kgGcop, .kgGexp), (.kgGexp, .kgGl), (.kgGl, .kgGlgcd),
    (.kgGlgcd, .kgGdraw), (.kgGlgcd, .kgU), (.kgU, .kgDone), (.decExp, .decL), (.decL, .decMul)]

/-- The states whose own rule can complete the command (R710, R711). -/
abbrev completingStates : List FsmState := [.kgPgen, .kgQgen, .kgGdraw, .kgGl, .kgDone, .decL, .decMul]

/-- A turn of the FSM or of the service goes from `f` to `g`. -/
abbrev TurnMoves (f g : FsmState) : Prop := (g = .idle ∧ f ∈ completingStates) ∨ (f, g) ∈ runningMoves

theorem TurnMoves.from_running {f g : FsmState} (h : TurnMoves f g) : f ≠ .idle := by
  rintro rfl
  rcases h with ⟨-, h⟩ | h <;> simp at h

theorem TurnMoves.to_idle {f : FsmState} (h : TurnMoves f .idle) : f ∈ completingStates := by
  rcases h with ⟨-, h⟩ | h
  · exact h
  · simp at h

theorem TurnMoves.to_running {f g : FsmState} (h : TurnMoves f g) (hg : g ≠ .idle) : (f, g) ∈ runningMoves := by
  rcases h with ⟨h, -⟩ | h
  · exact absurd h hg
  · exact h

theorem internalStep_moves {s t : State} (h : InternalStep s t) : t.fsm = s.fsm ∨ TurnMoves s.fsm t.fsm := by
  cases h with
  | none _ => exact .inl rfl
  | kgClamp at_ | kgN at_ | kgGl at_ | decL at_ => rw [enter_fsm, at_]; decide
  | kgGlError at_ | decLError at_ => rw [raiseError_fsm, at_]; decide
  | kgDone at_ | decMul at_ => rw [complete_fsm, at_]; decide

theorem responseStep_moves {v : Nat} {s t : State} (h : ResponseStep v s t) :
    t.fsm = s.fsm ∨ TurnMoves s.fsm t.fsm := by
  cases h with
  | none _ => exact .inl rfl
  | kgPgenError at_ | kgQgenError at_ | kgGdrawError at_ => rw [raiseError_fsm, at_]; decide
  | kgPgen at_ | kgQgenAgain at_ | kgQgen at_ | kgLgcd at_ | kgGdrawAgain at_ | kgGdraw at_ | kgGcopAgain at_
  | kgGcop at_ | kgGexp at_ | kgGlgcdAgain at_ | kgGlgcd at_ | kgU at_ | decExp at_ => rw [enter_fsm, at_]; decide

/-- Command `i` starts a run in state `f` (R400, R502, R503). -/
abbrev StartsIn (i : Instr) (f : FsmState) : Prop :=
  (f = .kgClamp ∧ i = .keygen) ∨ (f = .decExp ∧ i = .dec) ∨ (f = .decL ∧ i = .decx)

theorem accepted_moves {i : Instr} {s t : State} (hidle : s.fsm = .idle) (h : Accepted s i t) :
    t.fsm = s.fsm ∨ StartsIn i t.fsm := by
  cases h with
  | nop | abort | clrstat => exact .inl rfl
  | keygen => exact .inr (.inl ⟨rfl, rfl⟩)
  | dec => exact .inr (.inr (.inl ⟨rfl, rfl⟩))
  | decx => exact .inr (.inr (.inr ⟨rfl, rfl⟩))
  | _ => exact .inl hidle.symm

theorem exec_moves {i : Instr} {s t : State} (h : exec i s = .next t) :
    t.fsm = s.fsm ∨ (s.fsm = .idle ∧ StartsIn i t.fsm) ∨ (s.fsm ≠ .idle ∧ t.fsm = .idle ∧ i = .abort) := by
  rcases exec_next h with ⟨-, -, rfl⟩ | ⟨hbusy, rfl, rfl⟩ | ⟨hidle, hacc⟩
  · exact .inl rfl
  · exact .inr (.inr ⟨(busy_iff s).mp hbusy, rfl, rfl⟩)
  · have hfsm := (not_busy_iff s).mp hidle
    rcases accepted_moves hfsm hacc with hsame | hstart
    · exact .inl hsame
    · exact .inr (.inl ⟨hfsm, hstart⟩)

/-- Everything that moves the FSM state, with the event that does. -/
theorem step_moves {s t : State} (h : step s = .next t) (hne : t.fsm ≠ s.fsm) :
    (∃ i, nextIsCommand s i = true ∧ s.fsm = .idle ∧ StartsIn i t.fsm)
    ∨ (t.fsm = .idle ∧ s.fsm ≠ .idle ∧ (nextIsReset s = true ∨ nextIsCommand s .abort = true))
    ∨ TurnMoves s.fsm t.fsm := by
  obtain ⟨s₁, ⟨-, -, -, -, hfsm, -, -⟩, heffect⟩ := step_effect h
  rw [← hfsm] at hne ⊢
  cases heffect with
  | side effect => exact absurd effect.fsm hne
  | command i next run =>
    rcases exec_moves run with hsame | ⟨hidle, hstart⟩ | ⟨hrun, hend, rfl⟩
    · exact absurd hsame hne
    · exact .inl ⟨i, next, hidle, hstart⟩
    · exact .inr (.inl ⟨hend, hrun, .inr next⟩)
  | buffer b i v => exact absurd (keySideEffects_fsm b _) hne
  | fsm turn => exact .inr (.inr ((internalStep_moves turn).resolve_left hne))
  | service v turn => exact .inr (.inr ((responseStep_moves turn).resolve_left hne))
  | reset next => exact .inr (.inl ⟨rfl, hne.symm, .inl next⟩)

/-- Settles O47: the state moves by a command in IDLE, by ABORT or reset, or by a turn of the FSM or the service. -/
theorem theStateFollowsItsTransitions : Obligations.TheStateFollowsItsTransitions := by
  intro s t h hne
  rcases step_moves h hne with ⟨i, next, hidle, hstart⟩ | ⟨hend, hrun, hevent⟩ | hturn
  · refine ⟨fun _ => ?_, fun hend => absurd (hend.trans hidle.symm) hne, fun hrun => absurd hidle hrun⟩
    rcases hstart with ⟨hf, rfl⟩ | ⟨hf, rfl⟩ | ⟨hf, rfl⟩
    · exact .inl ⟨hf, next⟩
    · exact .inr (.inl ⟨hf, next⟩)
    · exact .inr (.inr ⟨hf, next⟩)
  · refine ⟨fun hidle => absurd hidle hrun, fun _ => ?_, fun _ hgo => absurd hend hgo⟩
    exact hevent.elim .inl fun habort => .inr (.inl habort)
  · exact ⟨fun hidle => absurd hidle hturn.from_running,
      fun hend => .inr (.inr (TurnMoves.to_idle (hend ▸ hturn))), fun _ hgo => hturn.to_running hgo⟩

/-! The buffers M, N2 and C, and KEYBITS_EFF -/

/-- The build is kept, and M, N2, C and KEYBITS_EFF change only if the given conditions hold. -/
structure ChangesOnlyIf (s t : State) (m n2 c keybitsEff : Prop) : Prop where
  build : t.build = s.build
  m : t.buf.m ≠ s.buf.m → m
  n2 : t.buf.n2 ≠ s.buf.n2 → n2
  c : t.buf.c ≠ s.buf.c → c
  keybitsEff : t.regs.keybitsEff ≠ s.regs.keybitsEff → keybitsEff

theorem changesOnlyIf_of_eq {s t : State} {m n2 c eff : Prop} (hbuild : t.build = s.build) (hbuf : t.buf = s.buf)
    (heff : t.regs.keybitsEff = s.regs.keybitsEff) : ChangesOnlyIf s t m n2 c eff :=
  ⟨hbuild, absurd (by rw [hbuf]), absurd (by rw [hbuf]), absurd (by rw [hbuf]), absurd heff⟩

theorem internalStep_changes {s t : State} (h : InternalStep s t) :
    ChangesOnlyIf s t (s.fsm = .decMul) (s.fsm = .kgN) False (s.fsm = .kgClamp) := by
  cases h with
  | kgClamp at_ => exact ⟨rfl, absurd rfl, absurd rfl, absurd rfl, fun _ => at_⟩
  | kgN at_ => exact ⟨rfl, absurd rfl, fun _ => at_, absurd rfl, absurd rfl⟩
  | decMul at_ => exact ⟨rfl, fun _ => at_, absurd rfl, absurd rfl, absurd rfl⟩
  | _ => exact changesOnlyIf_of_eq rfl rfl rfl

/-- A response writes at most LAMBDA, G, X or U of the host-visible buffers. -/
theorem responseStep_changes {v : Nat} {s t : State} (h : ResponseStep v s t) :
    ChangesOnlyIf s t False False False False := by
  cases h <;> exact ⟨rfl, absurd rfl, absurd rfl, absurd rfl, absurd rfl⟩

theorem exec_changes {i : Instr} {s t : State} (h : exec i s = .next t) :
    ChangesOnlyIf s t (i = .zeroize) (i = .loadpriv ∨ i = .zeroize) (i = .zeroize) (i = .zeroize) := by
  rcases exec_next h with ⟨-, -, rfl⟩ | ⟨-, -, rfl⟩ | ⟨-, hacc⟩
  · exact changesOnlyIf_of_eq rfl rfl rfl
  · exact changesOnlyIf_of_eq rfl rfl rfl
  · cases hacc with
    | zeroize => exact ⟨rfl, fun _ => rfl, fun _ => .inr rfl, fun _ => rfl, fun _ => rfl⟩
    | loadpriv => exact ⟨rfl, absurd rfl, fun _ => .inl rfl, absurd rfl, absurd rfl⟩
    | _ => exact changesOnlyIf_of_eq rfl rfl rfl

theorem bufWrite_changes {b : Buf} (hb : b.hostWritable = true) (i : Nat) (v : Word) (s : State) :
    ChangesOnlyIf s (bufWrite b i v s) False False (b = .c) False := by
  cases b with
  | n2 | m => cases hb
  | c => exact ⟨rfl, absurd rfl, absurd rfl, fun _ => rfl, absurd rfl⟩
  | n | g | lambda | u | x => exact ⟨rfl, absurd rfl, absurd rfl, absurd rfl, absurd rfl⟩

/-- Settles O50: each kind of step changes of these only what the statement allows its event. -/
theorem onlyTheNamedWritersChangeABuffer : Obligations.OnlyTheNamedWritersChangeABuffer := by
  intro s t h
  obtain ⟨s₁, ⟨-, hregs, hbuf, -, hfsm, -, hbuild⟩, heffect⟩ := step_effect h
  rw [← hregs, ← hbuf, ← hfsm, ← hbuild]
  cases heffect with
  | side effect =>
    obtain ⟨hb, hm, hn2, hc, heff⟩ : ChangesOnlyIf s₁ t False False False False :=
      changesOnlyIf_of_eq effect.build effect.buf effect.keybitsEff
    exact ⟨hb, False.elim ∘ hm, False.elim ∘ hn2, False.elim ∘ hc, False.elim ∘ heff⟩
  | command i next run =>
    obtain ⟨hb, hm, hn2, hc, heff⟩ := exec_changes run
    have hzeroize : i = .zeroize → nextIsCommand s .zeroize = true := by rintro rfl; exact next
    have hloadpriv : i = .loadpriv → nextIsCommand s .loadpriv = true := by rintro rfl; exact next
    exact ⟨hb, by tauto, by tauto, by tauto, by tauto⟩
  | buffer b i v next writable inside =>
    obtain ⟨hb, hm, hn2, hc, heff⟩ := bufWrite_changes writable i v s₁
    refine ⟨hb, False.elim ∘ hm, False.elim ∘ hn2, fun h => ?_, False.elim ∘ heff⟩
    cases hc h
    exact .inl ⟨i, inside, next⟩
  | fsm turn =>
    obtain ⟨hb, hm, hn2, hc, heff⟩ := internalStep_changes turn
    exact ⟨hb, by tauto, by tauto, by tauto, by tauto⟩
  | service v turn =>
    obtain ⟨hb, hm, hn2, hc, heff⟩ := responseStep_changes turn
    exact ⟨hb, False.elim ∘ hm, False.elim ∘ hn2, False.elim ∘ hc, False.elim ∘ heff⟩
  | reset next => exact ⟨rfl, by tauto, by tauto, by tauto, by tauto⟩

end Sys2Proof.Machine
end

section
/-! SUPPORT. The window: the words of a buffer and what a write leaves of them (R203, R207), the bus error (R202), and
what an access to a buffer word, to a read-only place or to a reserved offset does (R205 to R210). -/

namespace Sys2Proof.Machine

/-! The words of a buffer -/

theorem wordOf_toNat (w v i : Nat) : (wordOf w v i).toNat = v / 2 ^ wordShift w i % 2 ^ 32 :=
  BitVec.toNat_ofNat _ _

/-- Writing the same word again writes nothing new. -/
@[simp] theorem setWord_setWord (w v i : Nat) (d : Word) : setWord w (setWord w v i d) i d = setWord w v i d := by
  apply Nat.eq_of_testBit_eq
  intro j
  simp only [setWord_testBit]
  split_ifs <;> rfl

@[simp] theorem set_set (bs : Bufs) (b : Buf) (v v' : Nat) : (bs.set b v).set b v' = bs.set b v' := by cases b <;> rfl

/-- Settles O35: a word is its bits, and the words determine a number that fits them. -/
theorem buffersAreBigEndianWords : Obligations.BuffersAreBigEndianWords := by
  refine ⟨fun s b i _ => wordOf_toNat _ _ i, fun s t b hbuild hs ht hwords => ?_⟩
  refine eq_of_wordOf_eq _ _ _ hs ht fun i hi => ?_
  have h := hwords i hi
  unfold bufWord at h
  rwa [hbuild] at h

/-! What a buffer write leaves, field by field (R127, R207) -/

@[simp] theorem bufWrite_buf (b : Buf) (i : Nat) (v : Word) (s : State) :
    (bufWrite b i v s).buf = s.buf.set b (setWord (b.words s.build) (s.buf.get b) i v) := keySideEffects_buf b _

@[simp] theorem bufWrite_hid (b : Buf) (i : Nat) (v : Word) (s : State) : (bufWrite b i v s).hid = s.hid :=
  keySideEffects_hid b _

@[simp] theorem bufWrite_fsm (b : Buf) (i : Nat) (v : Word) (s : State) : (bufWrite b i v s).fsm = s.fsm :=
  keySideEffects_fsm b _

@[simp] theorem bufWrite_req (b : Buf) (i : Nat) (v : Word) (s : State) : (bufWrite b i v s).req = s.req :=
  keySideEffects_req b _

@[simp] theorem bufWrite_inputs (b : Buf) (i : Nat) (v : Word) (s : State) : (bufWrite b i v s).inputs = s.inputs :=
  keySideEffects_inputs b _

@[simp] theorem bufWrite_bus (b : Buf) (i : Nat) (v : Word) (s : State) : (bufWrite b i v s).bus = s.bus :=
  keySideEffects_bus b _

@[simp] theorem bufWrite_freeCtr (b : Buf) (i : Nat) (v : Word) (s : State) :
    (bufWrite b i v s).freeCtr = s.freeCtr := keySideEffects_freeCtr b _

@[simp] theorem bufWrite_build (b : Buf) (i : Nat) (v : Word) (s : State) : (bufWrite b i v s).build = s.build :=
  keySideEffects_build b _

/-- The only registers a buffer write can change are the block sizes. -/
theorem bufWrite_regs (b : Buf) (i : Nat) (v : Word) (s : State) :
    let t := bufWrite b i v s
    t.regs = { s.regs with nbits := t.regs.nbits, ptbs := t.regs.ptbs, ctbs := t.regs.ctbs } := by
  cases b <;> rfl

/-- The only STATUS fields a buffer write can change are KEY_PUB, KEY_PRIV and RESULT_VALID. -/
theorem bufWrite_status (b : Buf) (i : Nat) (v : Word) (s : State) :
    let t := bufWrite b i v s
    t.status =
      { s.status with
        keyPub := t.status.keyPub, keyPriv := t.status.keyPriv, resultValid := t.status.resultValid } := by
  cases b <;> rfl

@[simp] theorem bufWord_bufWrite_same (b : Buf) (i : Nat) (v : Word) (s : State) :
    bufWord (bufWrite b i v s) b i = v := by
  simp [bufWord]

theorem bufWord_bufWrite_other {b b' : Buf} {i j : Nat} (v : Word) {s : State} (hi : i < b.words s.build)
    (hj : j < b'.words s.build) (hne : ¬(b' = b ∧ j = i)) : bufWord (bufWrite b i v s) b' j = bufWord s b' j := by
  unfold bufWord
  rw [bufWrite_build, bufWrite_buf]
  by_cases hb : b' = b
  · subst hb
    rw [get_set_same, wordOf_setWord_other _ _ _ _ _ hi hj fun hji => hne ⟨rfl, hji⟩]
  · rw [get_set_other _ _ _ _ hb]

/-! An access that is not one aligned word -/

/-- Inside the window such an access gets the bus error and nothing else (R202). -/
theorem hostAccess_illegal {off size : Nat} (hwin : off < Config.window) (h : size ≠ 4 ∨ off % 4 ≠ 0)
    (s : State) :
    hostAccess (.read off size) s = .next { s with bus := .error 0 }
      ∧ ∀ v, hostAccess (.write off size v) s = .next { s with bus := .error 0 } := by
  have hlegal : ¬accessLegal off size = true := by rw [accessLegal_iff]; omega
  simp only [hostAccess, if_neg (not_le.mpr hwin), if_neg hlegal, implies_true, and_self]

/-- Settles O43: reads and writes alike fail the size and alignment check. -/
theorem onlyAlignedWordsAreAccessed : Obligations.OnlyAlignedWordsAreAccessed := by
  intro s off size v rest a ha hin hwin hbad
  obtain ⟨hread, hwrite⟩ := hostAccess_illegal hwin hbad { s with inputs := rest }
  rw [step_event hin]
  rcases ha with rfl | rfl
  · exact hread
  · exact hwrite v

/-! An access to a buffer word, to a register that ignores writes, or to a reserved offset -/

theorem step_write_buf_idle {s : State} {b : Buf} {i : Nat} {v : Word} {rest : List Event} (hc : s.build.Legal)
    (hidle : s.fsm = .idle) (hw : b.hostWritable = true) (hi : i < b.words s.build)
    (hin : s.inputs = .host (.write (b.offset i) 4 v) :: rest) :
    step s = .next (bufWrite b i v (writeTaken rest s)) :=
  (step_write_buf hc hw hi hin).trans (ifIdle_idle _ ((not_busy_iff _).mpr hidle))

theorem step_read_buf {s : State} {b : Buf} {i : Nat} {rest : List Event} (hc : s.build.Legal)
    (hi : i < b.words s.build) (hin : s.inputs = .host (.read (b.offset i) 4) :: rest) :
    step s =
      .next
        (if s.busy then
          { s with inputs := rest, bus := .readData (Config.freeReadWord s.freeCtr), freeCtr := s.freeCtr + 1 }
        else { s with inputs := rest, bus := .readData (bufWord s b i) }) := by
  rw [step_read hin (bufOffset_inside hc hi),
    busRead_buf (s := { s with inputs := rest }) (regionOf_bufOffset hc b i hi)]
  rfl

theorem step_read_buf_idle {s : State} {b : Buf} {i : Nat} {rest : List Event} (hc : s.build.Legal)
    (hidle : s.fsm = .idle) (hi : i < b.words s.build) (hin : s.inputs = .host (.read (b.offset i) 4) :: rest) :
    step s = .next { s with inputs := rest, bus := .readData (bufWord s b i) } := by
  rw [step_read_buf hc hi hin, (not_busy_iff s).mpr hidle, if_neg Bool.false_ne_true]

/-- The control registers end below the first reserved offset (R201). -/
theorem regOffset_lt (r : Reg) : r.offset < 0x3C := by cases r <;> decide

/-- Above the control registers only a buffer has words (R201, R206). -/
theorem regionOf_above_regs (c : Build) {off : Nat} (h4 : off % 4 = 0) (hlow : 0x3C ≤ off) :
    (∃ b i, i < b.words c ∧ off = b.offset i ∧ regionOf c off = .buf b i) ∨ regionOf c off = .reserved := by
  cases hreg : regionOf c off with
  | reg r =>
    have hlt := regOffset_lt r
    rw [← regionOf_eq_reg hreg h4] at hlt
    omega
  | buf b i =>
    obtain ⟨hi, hoff⟩ := regionOf_eq_buf hreg
    exact .inl ⟨b, i, hi, hoff h4, rfl⟩
  | reserved => exact .inr rfl

@[simp] theorem busRead_inputs (off : Nat) (s : State) : (busRead off s).inputs = s.inputs := by
  cases hreg : regionOf s.build off with
  | reg r => rw [busRead_reg hreg]
  | buf b i => rw [busRead_buf hreg]; split <;> rfl
  | reserved => rw [busRead_reserved hreg]

/-- A read inside the window, of any size and alignment, leaves the block as it is (R202, R205, R212). -/
theorem step_read_sameBlock {s : State} {off size : Nat} {rest : List Event}
    (hin : s.inputs = .host (.read off size) :: rest) (hwin : off < Config.window) :
    ∃ t, step s = .next t ∧ SameBlock s t ∧ t.inputs = rest := by
  by_cases hlegal : size = 4 ∧ off % 4 = 0
  · obtain ⟨rfl, h4⟩ := hlegal
    exact ⟨_, step_read hin ⟨hwin, h4⟩, busRead_sameBlock off { s with inputs := rest }, busRead_inputs off _⟩
  · have herror : step s = .next { s with inputs := rest, bus := .error 0 } :=
      (step_event hin).trans (hostAccess_illegal hwin (by omega) _).1
    exact ⟨_, herror, .refl s, rfl⟩

/-- Settles O36: the read that follows the write answers the word written. -/
theorem aWrittenBufferWordReadsBack : Obligations.AWrittenBufferWordReadsBack := by
  intro s b i v rest hc hidle hw hi hin
  let t := bufWrite b i v (writeTaken (.host (.read (b.offset i) 4) :: rest) s)
  have hbuild : t.build = s.build := bufWrite_build b i v _
  have hwrite : step s = .next t := step_write_buf_idle hc hidle hw hi hin
  have hread : step t = .next { t with inputs := rest, bus := .readData (bufWord t b i) } :=
    step_read_buf_idle (hbuild ▸ hc) ((bufWrite_fsm b i v _).trans hidle) (hbuild ▸ hi) (bufWrite_inputs b i v _)
  refine ⟨{ t with inputs := rest, bus := .readData (bufWord t b i) }, ?_,
    congrArg BusResp.readData (bufWord_bufWrite_same b i v _), rfl⟩
  rw [run_step 1 hwrite, run_step 0 hread, run_zero]

/-- Settles O37: the state left is that of `bufWrite`, whose fields are those above. -/
theorem aBufferWriteKeepsEveryOtherWord : Obligations.ABufferWriteKeepsEveryOtherWord := by
  intro s b i v rest hc hidle hw hi hin
  refine ⟨_, step_write_buf_idle hc hidle hw hi hin, bufWrite_inputs b i v _, bufWrite_bus b i v _,
    bufWrite_freeCtr b i v _, bufWord_bufWrite_same b i v _, fun b' j hj hne => ?_, bufWrite_hid b i v _,
    bufWrite_fsm b i v _, bufWrite_req b i v _, bufWrite_regs b i v _, bufWrite_status b i v _⟩
  exact bufWord_bufWrite_other v (s := writeTaken rest s) hi hj hne

/-- Settles O41: a buffer word in IDLE, a buffer word while a command runs, and a reserved offset. -/
theorem bufferAndReservedReads : Obligations.BufferAndReservedReads := by
  intro s rest off hin
  refine ⟨fun b i hc hi hoff hidle => ?_, fun b i hc hi hoff hrun => ?_, fun hwin h4 hlow hnone => ?_⟩
  · subst hoff
    exact step_read_buf_idle hc hidle hi hin
  · subst hoff
    rw [step_read_buf hc hi hin, if_pos ((busy_iff s).mpr hrun)]
    exact ⟨_, rfl⟩
  · rcases regionOf_above_regs s.build h4 hlow with ⟨b, i, hi, hoff, -⟩ | hreg
    · exact absurd hoff (hnone b i hi)
    · rw [step_read hin ⟨hwin, h4⟩, busRead_reserved (s := { s with inputs := rest }) hreg]

/-- The registers a host write does not change (R208). -/
def readOnlyRegs : List Reg :=
  [.id, .version, .params, .status, .keybitsEff, .nbits, .ptbs, .ctbs, .pdrawCnt, .gdrawCnt]

theorem regWrite_readOnly {r : Reg} (h : r ∈ readOnlyRegs) (v : Word) (s : State) : regWrite r v s = .next s := by
  cases r with
  | cmd | keybits | certainty | irqEn | irqStat => exact absurd h (by decide)
  | _ => rfl

/-- Settles O44: a read-only register, a read-only buffer and a reserved offset each ignore the write. -/
theorem readOnlyAndReservedWritesAreIgnored : Obligations.ReadOnlyAndReservedWritesAreIgnored := by
  intro s off v rest hin hwin h4 hplace
  rcases hplace with hmem | ⟨hlow, hnone⟩
  · change off ∈ readOnlyRegs.map Reg.offset at hmem
    obtain ⟨r, hr, rfl⟩ := List.mem_map.mp hmem
    rw [step_write_reg hin, regWrite_readOnly hr]
  · rw [step_write hin ⟨hwin, h4⟩]
    rcases regionOf_above_regs s.build h4 hlow with ⟨b, i, hi, hoff, hreg⟩ | hreg
    · have hw : ¬b.hostWritable = true := fun hw => hnone b i hw hi hoff
      rw [busWrite_buf (s := writeTaken rest s) hreg, if_neg hw]
    · rw [busWrite_reserved (s := writeTaken rest s) hreg]

/-! A command while another runs -/

/-- Settles O16: of what a command can do, only the drop is left. -/
theorem commandsAreDroppedWhileBusy : Obligations.CommandsAreDroppedWhileBusy := by
  intro s i hrun hi
  have hbusy : s.busy = true := (busy_iff s).mpr hrun
  obtain ⟨t, ht⟩ := answers_exec i s
  rcases exec_next ht with ⟨-, -, rfl⟩ | ⟨-, habort, -⟩ | ⟨hidle, -⟩
  · exact ht
  · exact absurd habort hi
  · rw [hbusy] at hidle; cases hidle

end Sys2Proof.Machine
end

section
/-! SUPPORT. A write that is repeated (R212): what it leaves the first time is what it leaves the second. -/

namespace Sys2Proof.Machine

/-- The write leaves `t` of `s`, and does nothing more when it comes again, whatever is queued after it. -/
structure DoneOnce (write : State → Result) (s t : State) : Prop where
  inputs : t.inputs = s.inputs
  bus : t.bus = s.bus
  build : t.build = s.build
  again : ∀ rest, write { t with inputs := rest } = .next { t with inputs := rest }

/-- Only what the write does to a block of the same build matters. -/
theorem DoneOnce.of_eq {write write' : State → Result} {s t : State} (h : DoneOnce write s t)
    (heq : ∀ s', s'.build = s.build → write' s' = write s') : DoneOnce write' s t :=
  ⟨h.inputs, h.bus, h.build, fun rest => (heq { t with inputs := rest } h.build).trans (h.again rest)⟩

/-- A write without effect. -/
theorem doneOnce_ignored {write : State → Result} (h : ∀ s, write s = .next s) (s : State) : DoneOnce write s s :=
  ⟨rfl, rfl, rfl, fun _ => h _⟩

/-- A write under the BUSY check: a second drop sets OVR again, and a second store is `again`. -/
theorem doneOnce_ifIdle {f : State → State} {s t : State} (hfsm : (f s).fsm = s.fsm)
    (done : DoneOnce (fun s => .next (f s)) s (f s)) (h : ifIdle s (fun s => .next (f s)) = .next t) :
    DoneOnce (fun s => ifIdle s fun s => .next (f s)) s t := by
  rcases ifIdle_next h with ⟨hbusy, rfl⟩ | ⟨hidle, h⟩
  · exact ⟨rfl, rfl, rfl, fun rest => ifIdle_busy (s := { dropWrite s with inputs := rest }) _ hbusy⟩
  · cases h
    have hidle' : (f s).busy = false := (busy_of_fsm_eq hfsm).trans hidle
    exact ⟨done.inputs, done.bus, done.build,
      fun rest => (ifIdle_idle (s := { f s with inputs := rest }) _ hidle').trans (done.again rest)⟩

/-- A host write to a register other than CMD is done once: the stores store the same word, and clearing bits of
IRQ_STAT leaves them clear. -/
theorem doneOnce_regWrite {r : Reg} (hr : r ≠ .cmd) {v : Word} {s t : State} (h : regWrite r v s = .next t) :
    DoneOnce (regWrite r v) s t := by
  cases r with
  | cmd => exact absurd rfl hr
  | keybits | certainty => exact doneOnce_ifIdle rfl ⟨rfl, rfl, rfl, fun _ => rfl⟩ h
  | irqEn => cases h; exact ⟨rfl, rfl, rfl, fun _ => rfl⟩
  | irqStat =>
    cases h
    refine ⟨rfl, rfl, rfl, fun rest => ?_⟩
    simp only [regWrite, BitVec.and_assoc, BitVec.and_self]
  | _ => cases h; exact doneOnce_ignored (fun _ => rfl) s

/-- The key side effects do not look at the buffers' values (R127). -/
theorem keySideEffects_withBuf (b : Buf) (s : State) (bs : Bufs) :
    keySideEffects b { s with buf := bs } = { keySideEffects b s with buf := bs } := by
  cases b <;> rfl

theorem keySideEffects_keySideEffects (b : Buf) (s : State) :
    keySideEffects b (keySideEffects b s) = keySideEffects b s := by
  cases b <;> rfl

/-- A repeated buffer write stores the same word, and its key side effects find nothing left to clear (R127). -/
theorem bufWrite_bufWrite (b : Buf) (i : Nat) (v : Word) (s : State) :
    bufWrite b i v (bufWrite b i v s) = bufWrite b i v s := by
  let t := bufWrite b i v s
  have hkey : keySideEffects b t = t := keySideEffects_keySideEffects b _
  have hbuf : t.buf.set b (setWord (b.words t.build) (t.buf.get b) i v) = t.buf := by simp [t]
  calc bufWrite b i v t
      = { keySideEffects b t with buf := t.buf.set b (setWord (b.words t.build) (t.buf.get b) i v) } :=
        keySideEffects_withBuf b t _
    _ = t := by rw [hbuf, hkey]

theorem bufWrite_withInputs (b : Buf) (i : Nat) (v : Word) (s : State) (rest : List Event) :
    bufWrite b i v { s with inputs := rest } = { bufWrite b i v s with inputs := rest } := by
  cases b <;> rfl

theorem doneOnce_bufWrite (b : Buf) (i : Nat) (v : Word) (s : State) :
    DoneOnce (fun s => .next (bufWrite b i v s)) s (bufWrite b i v s) := by
  refine ⟨bufWrite_inputs b i v s, bufWrite_bus b i v s, bufWrite_build b i v s, fun rest => ?_⟩
  rw [bufWrite_withInputs, bufWrite_bufWrite]

/-- An aligned host write anywhere but at CMD is done once. -/
theorem doneOnce_busWrite {off : Nat} (h4 : off % 4 = 0) (hcmd : off ≠ 0x00C) {v : Word} {s t : State}
    (h : busWrite off v s = .next t) : DoneOnce (busWrite off v) s t := by
  cases hreg : regionOf s.build off with
  | reg r =>
    have hr : r ≠ .cmd := by
      rintro rfl
      exact hcmd (regionOf_eq_reg hreg h4)
    have done : DoneOnce (regWrite r v) s t := doneOnce_regWrite hr (busWrite_reg hreg ▸ h)
    exact done.of_eq fun _ hbuild => busWrite_reg (hbuild ▸ hreg)
  | buf b i =>
    rw [busWrite_buf hreg] at h
    cases hw : b.hostWritable with
    | true =>
      rw [hw, if_pos rfl] at h
      refine (doneOnce_ifIdle (bufWrite_fsm b i v s) (doneOnce_bufWrite b i v s) h).of_eq fun _ hbuild => ?_
      rw [busWrite_buf (hbuild ▸ hreg), hw, if_pos rfl]
    | false =>
      rw [hw, if_neg Bool.false_ne_true] at h
      cases h
      refine (doneOnce_ignored (fun _ => rfl) s).of_eq fun _ hbuild => ?_
      rw [busWrite_buf (hbuild ▸ hreg), hw, if_neg Bool.false_ne_true]
  | reserved =>
    rw [busWrite_reserved hreg] at h
    cases h
    exact (doneOnce_ignored (fun _ => rfl) s).of_eq fun _ hbuild => busWrite_reserved (hbuild ▸ hreg)

/-- Settles O42: a read leaves the block as it is, and an aligned write anywhere but at CMD is done once. -/
theorem readsAndRepeatedWritesHaveNoSideEffect : Obligations.ReadsAndRepeatedWritesHaveNoSideEffect := by
  refine ⟨fun s off size rest hin hwin => step_read_sameBlock hin hwin, fun s off v rest hin hwin h4 hcmd => ?_⟩
  obtain ⟨t, ht⟩ := answers_busWrite off v (writeTaken (.host (.write off 4 v) :: rest) s)
  obtain ⟨hinputs, hbus, -, hagain⟩ := doneOnce_busWrite h4 hcmd ht
  have htaken : writeTaken rest t = { t with inputs := rest } := by rw [hbus]
  refine ⟨t, (step_write hin ⟨hwin, h4⟩).trans ht, ?_⟩
  rw [step_write hinputs ⟨hwin, h4⟩, htaken]
  exact hagain rest

end Sys2Proof.Machine
end

section
/-! SUPPORT. The decoder and the encoder (R300 to R304), and what a write to CMD runs (R310). -/

namespace Sys2Proof.Machine

/-! The table and the words outside it -/

@[simp] theorem decode_encode (i : Instr) : decode (encode i) = .ok i := by cases i <;> rfl

theorem encode_injective : Function.Injective encode := fun i j h => by simpa using congrArg decode h

/-- Settles O1: the table's word decodes to its command, and no other word does. -/
theorem decoderAcceptsExactlyTheTableWords : Obligations.DecoderAcceptsExactlyTheTableWords := fun _ i =>
  ⟨eq_encode_of_decode, fun h => h ▸ decode_encode i⟩

/-- Settles O3: the eight table words, one word with an opcode outside the table, and one with RSV not 0. -/
theorem commandWordsDecodeToTheirCommands : Obligations.CommandWordsDecodeToTheirCommands :=
  ⟨decode_encode .nop, decode_encode .keygen, decode_encode .dec, decode_encode .decx, decode_encode .loadpriv,
    decode_encode .abort, decode_encode .clrstat, decode_encode .zeroize, rfl, rfl⟩

theorem decodeOpc_ok_iff (opc : BitVec 8) : (∃ i, decodeOpc opc = .ok i) ↔ opc.toNat < 0x08 := by
  unfold decodeOpc
  split
  case h_9 =>
    have hhigh : ¬opc.toNat < 0x08 := by grind
    simp only [hhigh, reduceCtorEq, exists_false]
  all_goals rename_i hopc; simp [hopc]

/-- The legal words (R303): RSV is 0, and OPC is one of the eight opcodes. -/
theorem decode_ok_iff (w : Word) :
    (∃ i, decode w = .ok i) ↔ w.extractLsb' 8 24 = 0#24 ∧ (w.extractLsb' 0 8).toNat < 0x08 := by
  change _ ↔ cmdRsv w = 0#24 ∧ (cmdOpc w).toNat < 0x08
  unfold decode
  split
  case isTrue hrsv => rw [decodeOpc_ok_iff]; exact (and_iff_right hrsv).symm
  case isFalse hrsv => simp [show ¬cmdRsv w = 0#24 from hrsv]

theorem decode_error_iff (w : Word) :
    (∃ e, decode w = .error e) ↔ w.extractLsb' 8 24 ≠ 0#24 ∨ 0x08 ≤ (w.extractLsb' 0 8).toNat := by
  have herror : (∃ e, decode w = .error e) ↔ ¬∃ i, decode w = .ok i := by cases decode w <;> simp
  rw [herror, decode_ok_iff, not_and_or, not_lt]

theorem rsvIsZero_iff (w : Word) : rsvIsZero w = true ↔ w.extractLsb' 8 24 = 0#24 := by
  have hrsv : (w.extractLsb' 8 24).toNat = w.toNat / 256 % 2 ^ 24 := by simp [Nat.shiftRight_eq_div_pow]
  have hlt := w.isLt
  rw [rsvIsZero, beq_iff_eq, ← BitVec.toNat_inj, hrsv, BitVec.toNat_ofNat]
  omega

theorem opcIsDefined_iff (w : Word) : opcIsDefined w = true ↔ (w.extractLsb' 0 8).toNat < 0x08 := by
  simp [opcIsDefined]

/-- Settles O2: an error is what is not a command, and both checks of well-formedness are the decoder's. -/
theorem illegalWordsAreExactlyTheReservedOnes : Obligations.IllegalWordsAreExactlyTheReservedOnes := fun w => by
  refine ⟨decode_error_iff w, ?_⟩
  rw [decode_ok_iff, wordWellFormed, Bool.and_eq_true, rsvIsZero_iff, opcIsDefined_iff]

/-! A write to CMD -/

theorem cmdWrite_of_ok {v : Word} {i : Instr} (h : decode v = .ok i) (s : State) : cmdWrite v s = exec i s := by
  unfold cmdWrite; rw [h]

theorem cmdWrite_of_error {v : Word} {e : DecodeError} (h : decode v = .error e) (s : State) :
    cmdWrite v s = ifIdle s fun s => .next (raiseError .illegalCmd s) := by
  unfold cmdWrite; rw [h]

theorem step_write_cmd {s : State} {v : Word} {rest : List Event}
    (hin : s.inputs = .host (.write 0x00C 4 v) :: rest) : step s = cmdWrite v (writeTaken rest s) :=
  step_write_reg (r := .cmd) hin

/-- Settles O4: the write is acknowledged, and the word is decoded. -/
theorem stepRunsTheDecodedCommand : Obligations.StepRunsTheDecodedCommand := fun _ _ _ _ hin hd =>
  (step_write_cmd hin).trans (cmdWrite_of_ok hd _)

/-- Settles O5: a word that decodes is a table word, and each table word picks out its own line of the order. -/
theorem cmdWriteIsDispatchedInOrder : Obligations.CmdWriteIsDispatchedInOrder := by
  intro s v rest hin s₀
  rw [step_write_cmd hin]
  cases hd : decode v with
  | error e =>
    have habort : v ≠ 0x00000005#32 := by rintro rfl; cases hd
    rw [cmdWrite_of_error hd, if_neg habort, if_pos ((decode_error_iff v).mp ⟨e, hd⟩)]
    exact if_congr (busy_iff s₀) rfl rfl
  | ok i =>
    rw [cmdWrite_of_ok hd]
    have hlegal : ¬(v.extractLsb' 8 24 ≠ 0#24 ∨ 0x08 ≤ (v.extractLsb' 0 8).toNat) := by
      rw [← decode_error_iff, hd]; rintro ⟨_, h⟩; cases h
    rw [if_neg hlegal]
    obtain rfl := eq_encode_of_decode hd
    by_cases hi : i = .abort
    · subst hi; rfl
    · have habort : encode i ≠ 0x00000005#32 := fun h => hi (encode_injective h)
      rw [if_neg habort]
      by_cases hrun : s.fsm ≠ .idle
      · rw [if_pos hrun]
        exact commandsAreDroppedWhileBusy _ _ hrun hi
      · rw [if_neg hrun]
        cases i with
        | abort => exact absurd rfl hi
        | _ => rfl

end Sys2Proof.Machine
end

section
/-! SUPPORT. What a command leaves unchanged in its own step (R310). -/

namespace Sys2Proof.Machine

/-- Settles O17: every arm of `exec` ends in a next state. -/
theorem everyCommandAnswersANextState : Obligations.EveryCommandAnswersANextState := answers_exec

/-- At most the record of an outcome differs: DONE, ERR, OVR, ERRCODE, bits set in IRQ_STAT, and the FSM state with
its request. -/
inductive OutcomeOnly (s : State) : State → Prop
  | record (done err ovr : Bool) (errCode : ErrCode) (irqStat : BitVec 2) (fsm : FsmState) (req : Option Request)
      (kept : s.regs.irqStat &&& irqStat = s.regs.irqStat) :
      OutcomeOnly s
        { s with
          status := { s.status with done := done, err := err, ovr := ovr, errCode := errCode }
          regs := { s.regs with irqStat := irqStat }
          fsm := fsm, req := req }

/-- Bits set beside those of `x` clear none of them. -/
@[simp] theorem and_or_same {n : Nat} (x y : BitVec n) : x &&& (x ||| y) = x := by
  ext i hi
  simp only [BitVec.getElem_and, BitVec.getElem_or]
  cases x[i] <;> rfl

theorem outcomeOnly_refl (s : State) : OutcomeOnly s s := .record _ _ _ _ _ _ _ BitVec.and_self

theorem outcomeOnly_dropWrite (s : State) : OutcomeOnly s (dropWrite s) := .record _ _ _ _ _ _ _ BitVec.and_self

theorem outcomeOnly_clearStatus (s : State) : OutcomeOnly s (clearStatus s) := .record _ _ _ _ _ _ _ BitVec.and_self

theorem outcomeOnly_raiseError (code : ErrCode) (s : State) : OutcomeOnly s (raiseError code s) :=
  .record _ _ _ _ _ _ _ (and_or_same _ _)

/-- What a command leaves, by how much of the block it touches: the record of an outcome, or the work of KEYGEN, DEC,
DECX, LOADPRIV or ZEROIZE once it is accepted. -/
inductive CommandEffect (s : State) : Instr → State → Prop
  | outcome (i : Instr) {t : State} (only : OutcomeOnly s t) : CommandEffect s i t
  | keygen : CommandEffect s .keygen (keygenAccepted s)
  | dec : CommandEffect s .dec (startDecrypt .decExp s)
  | decx : CommandEffect s .decx (startDecrypt .decL s)
  | loadpriv : CommandEffect s .loadpriv (loadprivCommitted s)
  | zeroize : CommandEffect s .zeroize (complete (eraseAll s))

/-- Everything a command can do, up to its outcome: drops, errors and the commands without work are one case. -/
theorem exec_effect {i : Instr} {s t : State} (h : exec i s = .next t) : CommandEffect s i t := by
  rcases exec_next h with ⟨-, -, rfl⟩ | ⟨-, -, rfl⟩ | ⟨-, hacc⟩
  · exact .outcome i (outcomeOnly_dropWrite s)
  · exact .outcome i (outcomeOnly_raiseError _ s)
  · cases hacc with
    | nop | abort => exact .outcome _ (outcomeOnly_refl s)
    | clrstat => exact .outcome _ (outcomeOnly_clearStatus s)
    | decNoKey | decxNoKey | decxRange | loadprivRange => exact .outcome _ (outcomeOnly_raiseError _ s)
    | keygen => exact .keygen
    | dec => exact .dec
    | decx => exact .decx
    | loadpriv => exact .loadpriv
    | zeroize => exact .zeroize

/-- In IDLE a command is not dropped, so only CLRSTAT writes OVR. -/
theorem exec_ovr_idle {i : Instr} {s t : State} (h : exec i s = .next t) (hidle : s.fsm = .idle)
    (hi : i ≠ .clrstat) : t.status.ovr = s.status.ovr := by
  rcases exec_next h with ⟨hbusy, -, -⟩ | ⟨hbusy, -, -⟩ | ⟨-, hacc⟩
  · exact absurd hidle ((busy_iff s).mp hbusy)
  · exact absurd hidle ((busy_iff s).mp hbusy)
  · exact accepted_ovr hacc hi

/-- The words of every buffer but N2 read as before LOADPRIV. -/
theorem bufWord_loadprivCommitted {b : Buf} (hb : b ≠ .n2) (s : State) (k : Nat) :
    bufWord (loadprivCommitted s) b k = bufWord s b k :=
  congrArg (wordOf (b.words s.build) · k) (get_set_other s.buf .n2 b (s.buf.n * s.buf.n) hb)

/-- Settles O18: the record of an outcome is outside every clause but those of OVR and IRQ_STAT, and the five commands
that work touch no field their clauses do not except. -/
theorem commandsKeepWhatTheyDoNotName : Obligations.CommandsKeepWhatTheyDoNotName := by
  intro i s t h
  have hovr : s.fsm = .idle → i ≠ .clrstat → t.status.ovr = s.status.ovr := exec_ovr_idle h
  cases exec_effect h with
  | outcome i only =>
    obtain ⟨done, err, ovr, errCode, irqStat, fsm, req, kept⟩ := only
    simpa [SameOutside, SameRegsButIrqStat, bufWord, kept] using hovr
  | keygen => simp [SameOutside, bufWord]
  | dec | decx => simp [SameOutside, SameRegsButIrqStat, bufWord]
  | loadpriv => simp +contextual [SameOutside, bufWord_loadprivCommitted]
  | zeroize => simp [SameOutside]

end Sys2Proof.Machine
end

section
/-! SUPPORT. Key generation (40_keygen.md): the turn of an agent in a known FSM state (R131, R140), what each state of
KEYGEN writes (R410 to R421), and the key a completed KEYGEN leaves (R430). -/

namespace Sys2Proof.Machine

/-! The turn of an agent in a known FSM state: written over the state named, it unfolds to the rule of that state -/

theorem fsmStep_at {s : State} {f : FsmState} (at_ : s.fsm = f) : fsmStep s = fsmStep { s with fsm := f } := by
  subst at_; rfl

theorem serviceStep_of_answer {s : State} {r : Request} {d v : Nat} (hr : s.req = some r)
    (hv : serviceAnswer d r = some v) : serviceStep d s = deliver v s := by
  unfold serviceStep
  rw [hr]
  simp only [hv]

theorem serviceStep_at {s : State} {f : FsmState} {r : Request} {d v : Nat} (at_ : s.fsm = f) (hr : s.req = some r)
    (hv : serviceAnswer d r = some v) : serviceStep d s = deliver v { s with fsm := f } := by
  subst at_; exact serviceStep_of_answer hr hv

theorem whenDefined_of_true {p : Bool} (hp : p = true) (r : Result) : whenDefined p r = r := by subst hp; rfl

/-- A state's rule that picks the state to enter by a test enters the first one where the test holds. -/
theorem next_enter_of_pos {p : Prop} [Decidable p] (h : p) (f g : FsmState) (s : State) :
    (.next (enter (if p then f else g) s) : Result) = .next (enter f s) := by
  rw [if_pos h]

theorem next_enter_of_neg {p : Prop} [Decidable p] (h : ¬p) (f g : FsmState) (s : State) :
    (.next (enter (if p then f else g) s) : Result) = .next (enter g s) := by
  rw [if_neg h]

theorem serviceAnswer_modexp_eq {b e m : Nat} (hm : 1 ≤ m) (d : Nat) :
    serviceAnswer d (.modexp b e m) = some (b ^ e % m) := by
  rw [serviceAnswer, if_neg (by omega), modexp_eq_pow_mod b e m hm]

theorem serviceAnswer_modinv_eq {a m : Nat} (hm : 1 ≤ m) (hgcd : Nat.gcd a m = 1) (d : Nat) :
    serviceAnswer d (.modinv a m) = some (modinv a m) :=
  if_neg (by simp [hgcd]; omega)

/-! The command, and the states before the modulus is known -/

/-- Settles O11: in IDLE the BUSY check goes on to the acceptance of R400. -/
theorem keygenIsAccepted : Obligations.KeygenIsAccepted := by
  intro s hidle
  rw [exec, execKeygen, ifIdle_idle _ ((not_busy_iff s).mpr hidle)]
  rfl

/-- Settles O20: the request's half is the latch KHALF, since halving a word does not wrap around. -/
theorem kgClampBoundsTheKeySize : Obligations.KgClampBoundsTheKeySize := by
  intro s at_ inRange eff
  have hhalf : (eff / 2).toNat = eff.toNat / 2 := BitVec.toNat_udiv
  rw [fsmStep_at at_, ← hhalf]
  rfl

/-- Settles O21: the draw is the answer, and its bit length decides. -/
theorem kgPgenTakesAPrimeOfKhalfBits : Obligations.KgPgenTakesAPrimeOfKhalfBits := by
  intro s v at_ hr counted
  rw [serviceStep_at at_ hr rfl]
  exact ⟨saturatingInc_toNat _, fun bad => if_pos bad, fun good => if_neg (not_not.mpr good)⟩

/-- Settles O22: the draw is the answer, and a draw of the right bit length is compared with P. -/
theorem kgQgenRedrawsUntilThePrimesDiffer : Obligations.KgQgenRedrawsUntilThePrimesDiffer := by
  intro s v at_ hr counted
  rw [serviceStep_at at_ hr rfl]
  refine ⟨saturatingInc_toNat _, fun bad => if_pos bad, fun good same => ?_, fun good differ => ?_⟩
  · exact (if_neg (not_not.mpr good)).trans (next_enter_of_pos same _ _ _)
  · exact (if_neg (not_not.mpr good)).trans (next_enter_of_neg differ _ _ _)

/-- Settles O23: the step of KG_N is R413's, written out. -/
theorem kgNMultipliesThePrimes : Obligations.KgNMultipliesThePrimes := fun _ at_ => fsmStep_at at_

/-- Settles O24: the GCD divides the product since it divides a factor, and it is not 0. -/
theorem kgLgcdComputesLambda : Obligations.KgLgcdComputesLambda := by
  intro s d at_ hr hp hq g
  have hpos : 1 ≤ g := Nat.gcd_pos_of_pos_left _ (by omega)
  refine ⟨(Nat.gcd_dvd_left _ _).mul_right _, ?_⟩
  rw [serviceStep_at at_ hr rfl]
  exact whenDefined_of_true (by simp only [Bool.and_eq_true, decide_eq_true_eq]; omega) _

/-! The candidate for G -/

/-- Settles O25: the draw is the answer, its contract is checked first, and then it is compared with N2. -/
theorem kgGdrawScreensTheCandidate : Obligations.KgGdrawScreensTheCandidate := by
  intro s v at_ hr counted
  rw [serviceStep_at at_ hr rfl]
  refine ⟨saturatingInc_toNat _, fun bad => if_pos bad, fun good high => ?_, fun good inside => ?_⟩
  · exact (if_neg (not_le.mpr good)).trans (next_enter_of_pos high _ _ _)
  · exact (if_neg (not_le.mpr good)).trans (next_enter_of_neg (not_le.mpr inside) _ _ _)

/-- Settles O26: the answer is the GCD, and both states compare it with 1. -/
theorem theGcdScreensDrawAgain : Obligations.TheGcdScreensDrawAgain := by
  refine fun s d => ⟨fun at_ hr => ?_, fun at_ hr => ?_⟩
  all_goals
    rw [serviceStep_at at_ hr rfl]
    exact ⟨fun bad => next_enter_of_pos bad _ _ _, fun good => next_enter_of_neg (not_not.mpr good) _ _ _⟩

/-- Settles O27: the answer is the power, by O33. -/
theorem exponentiationStatesWriteX : Obligations.ExponentiationStatesWriteX := fun _ d hn2 =>
  ⟨fun at_ hr => serviceStep_at at_ hr (serviceAnswer_modexp_eq hn2 d),
    fun at_ hr => serviceStep_at at_ hr (serviceAnswer_modexp_eq hn2 d)⟩

/-- Settles O28: the two cases are those of `lDefined`. -/
theorem kgGlNeedsAnExactDivision : Obligations.KgGlNeedsAnExactDivision := by
  intro s at_ hn
  have hstep := (fsmStep_at at_).trans (whenDefined_of_true (decide_eq_true hn) _)
  have hdef := lDefined_iff s.buf.x s.buf.n
  rw [Nat.one_le_iff_ne_zero] at hdef
  refine ⟨fun inexact => hstep.trans (if_neg fun h => ?_), fun hx hexact => hstep.trans (if_pos ?_)⟩
  · obtain ⟨hx, hexact⟩ := hdef.mp h
    exact inexact.elim hx fun hne => hne hexact
  · exact hdef.mpr ⟨hx, hexact⟩

/-- Settles O29: the answer is `modinv`, an inverse below N by O34. -/
theorem kgUInvertsL : Obligations.KgUInvertsL := fun s d at_ hr hn hgcd =>
  ⟨modinv s.hid.lv s.buf.n, modinv_lt _ _ hn, mul_modinv_modEq_one hn hgcd,
    serviceStep_at at_ hr (serviceAnswer_modinv_eq hn hgcd d)⟩

/-! The committed key -/

/-- Settles O30: the step of KG_DONE is R421's, with the success completion of R711 written out. -/
theorem kgDoneCommitsTheKey : Obligations.KgDoneCommitsTheKey := fun _ at_ => fsmStep_at at_

/-- Where L is defined, X is 1 modulo N (R13). -/
theorem mod_eq_one_of_lDefined {x n : Nat} (hn : 2 ≤ n) (h : lDefined x n = true) : x % n = 1 := by
  obtain ⟨hx, hexact⟩ := (lDefined_iff x n).mp h
  have hcongr : x - 1 + 1 ≡ 0 + 1 [MOD n] := Nat.ModEq.add_right 1 hexact
  rw [Nat.sub_add_cancel hx, Nat.zero_add] at hcongr
  exact Eq.trans hcongr (Nat.mod_eq_of_lt hn)

theorem modinv_mul_mod {a m : Nat} (hm : 2 ≤ m) (hgcd : Nat.gcd a m = 1) : modinv a m * a % m = 1 := by
  rw [Nat.mul_comm, mul_modinv_modEq_one (by omega) hgcd]
  exact Nat.mod_eq_of_lt hm

/-- After KG_U the buffers hold a generated key: X and LV are the values KG_GEXP and KG_GL gave them. -/
theorem generatedKey_of_kgU {s : State} (h : KgU s) : GeneratedKey s := by
  obtain ⟨⟨⟨⟨⟨⟨⟨⟨⟨-, -, hpq⟩, hn, hsq⟩, hlambda⟩, hg⟩, hgcd⟩, hx⟩, hdef, hlv⟩, hcoprime⟩, hu⟩ := h
  rw [hlv, hx] at hcoprime hu
  exact ⟨hn, hpq, hsq, hlambda, hg, hgcd, hx ▸ hdef, hcoprime, hu⟩

/-- Settles O55: the clause of KG_DONE gives the key, and the invariant after the step gives its sizes. -/
theorem completedKeygenLeavesAValidKey : Obligations.CompletedKeygenLeavesAValidKey := by
  intro s rest h at_ hin
  have hstep := (step_event hin).trans (kgDoneCommitsTheKey { s with inputs := rest } at_)
  have hinv := everyStepKeepsTheInvariant _ _ h hstep
  obtain ⟨htwo, -, -, hnbits⟩ := hinv.privKey rfl
  obtain ⟨hptbs, hctbs, -⟩ := hinv.sizes
  have hkey : KgU s := h.progress_at at_
  obtain ⟨⟨⟨⟨⟨⟨⟨⟨⟨⟨-, hp⟩, hq, hpq⟩, hn, hsq⟩, hlambda⟩, hg⟩, hgcd⟩, hx⟩, hdef, hlv⟩, hcoprime⟩, hu⟩ := id hkey
  have hpow : s.buf.x = s.buf.g ^ s.buf.lambda % s.buf.n2 := hx.trans (modexp_eq_pow_mod _ _ _ (by omega))
  have hinverse : s.buf.u * s.hid.lv % s.buf.n = 1 := by rw [hu]; exact modinv_mul_mod htwo hcoprime
  have hgenerated : GeneratedKey s := generatedKey_of_kgU hkey
  exact ⟨_, hstep, rfl, rfl, rfl, hn, hpq, hp, hq, hsq, hlambda, hg, hgcd, hpow, mod_eq_one_of_lDefined htwo hdef,
    hlv, hcoprime, hu, hinverse, hnbits, hptbs, hctbs, hgenerated⟩

end Sys2Proof.Machine
end

section
/-! SUPPORT. Decryption (41_decrypt.md): what LOADPRIV, DEC and DECX accept (R500 to R503), what the steps of a
decryption write (R510 to R521), the formula they compute (R532), and that it inverts encryption (R530, R531). -/

namespace Sys2Proof.Machine

/-! The commands -/

theorem ifIdle_of_fsm_idle {s : State} (hidle : s.fsm = .idle) (k : State → Result) : ifIdle s k = k s :=
  ifIdle_idle k ((not_busy_iff s).mpr hidle)

theorem exec_dec_idle {s : State} (hidle : s.fsm = .idle) :
    exec .dec s =
      if s.status.keyPriv = false then .next (raiseError .invalidKey s) else .next (startDecrypt .decExp s) := by
  rw [exec, execDec, ifIdle_of_fsm_idle hidle]

theorem exec_decx_idle {s : State} (hidle : s.fsm = .idle) :
    exec .decx s =
      if s.status.keyPriv = false then .next (raiseError .invalidKey s)
      else if s.buf.n2 ≤ s.buf.x then .next (raiseError .xRange s)
      else .next (startDecrypt .decL s) := by
  rw [exec, execDecx, ifIdle_of_fsm_idle hidle]

theorem exec_loadpriv_idle {s : State} (hidle : s.fsm = .idle) :
    exec .loadpriv s =
      if s.buf.n < 2 ∨ s.build.kbMax < bitLength s.buf.n then .next (raiseError .keyRange s)
      else .next (loadprivCommitted s) := by
  rw [exec, execLoadpriv, ifIdle_of_fsm_idle hidle]
  rfl

theorem exec_dec_accepted {s : State} (hidle : s.fsm = .idle) (hkey : s.status.keyPriv = true) :
    exec .dec s = .next (startDecrypt .decExp s) :=
  (exec_dec_idle hidle).trans (if_neg (by simp [hkey]))

/-- Settles O12: the acceptance of DEC, with the request of DEC_EXP written out. -/
theorem decIsAcceptedWithAPrivateKey : Obligations.DecIsAcceptedWithAPrivateKey := fun _ => exec_dec_accepted

/-- Settles O13: the role check is the first of both commands. -/
theorem decryptionNeedsAPrivateKey : Obligations.DecryptionNeedsAPrivateKey := by
  rintro s i (rfl | rfl) hidle hkey
  · exact (exec_dec_idle hidle).trans (if_pos hkey)
  · exact (exec_decx_idle hidle).trans (if_pos hkey)

/-- Settles O14: past the role check, X is compared with N2. -/
theorem decxIsAcceptedBelowTheSquare : Obligations.DecxIsAcceptedBelowTheSquare := by
  intro s hidle hkey
  have hrole := (exec_decx_idle hidle).trans (if_neg (by simp [hkey]))
  exact ⟨fun hbelow => hrole.trans (if_neg (not_le.mpr hbelow)), fun habove => hrole.trans (if_pos habove)⟩

/-- Settles O15: the one check is that of the modulus, and its two outcomes are R500's. -/
theorem loadprivCommitsOrRejectsTheModulus : Obligations.LoadprivCommitsOrRejectsTheModulus := by
  intro s hidle
  refine ⟨fun hlow hhigh => ?_, fun hrange => (exec_loadpriv_idle hidle).trans (if_pos hrange)⟩
  exact (exec_loadpriv_idle hidle).trans (if_neg (by omega))

/-! The FSM's steps -/

/-- Settles O31: the two cases are those of `lDefined`. -/
theorem decLNeedsAnExactDivision : Obligations.DecLNeedsAnExactDivision := by
  intro s at_ hn
  have hstep := (fsmStep_at at_).trans (whenDefined_of_true (decide_eq_true hn) _)
  have hdef : lDefined s.buf.x s.buf.n = true ↔ s.buf.x ≠ 0 ∧ (s.buf.x - 1) % s.buf.n = 0 := by
    rw [lDefined_iff, Nat.one_le_iff_ne_zero]
  refine ⟨fun inexact => hstep.trans (if_neg ?_), fun hx hexact => hstep.trans (if_pos (hdef.mpr ⟨hx, hexact⟩))⟩
  rw [hdef, not_and_or, not_not]
  exact inexact

/-- Settles O32: the step of DEC_MUL is R521's, with the success completion of R711 written out. -/
theorem decMulWritesTheResult : Obligations.DecMulWritesTheResult := fun _ at_ hn =>
  ⟨Nat.mod_lt _ hn, (fsmStep_at at_).trans (whenDefined_of_true (decide_eq_true hn) _)⟩

/-! A whole DEC -/

/-- The number DEC_EXP asks for (R510). -/
abbrev decPower (s : State) : Nat := s.buf.c ^ s.buf.lambda % s.buf.n2

/-- The state the first two events of a DEC leave (R502, R510), with `rest` still queued. -/
abbrev decExpDone (rest : List Event) (s : State) : State :=
  { startDecrypt .decExp (writeTaken rest s) with
    buf := { s.buf with x := decPower s }, fsm := .decL, req := none }

/-- The state DEC_L leaves next, where L of the power is defined (R520). -/
abbrev decLDone (rest : List Event) (s : State) : State :=
  { decExpDone rest s with hid := { s.hid with lv := (decPower s - 1) / s.buf.n }, fsm := .decMul }

section
variable {s : State} {d : Nat} {rest : List Event} (hidle : s.fsm = .idle) (hkey : s.status.keyPriv = true)
  (hn : 1 ≤ s.buf.n) (hn2 : 1 ≤ s.buf.n2)
include hidle hkey hn2

/-- The command is accepted, and the service answers with the power whatever number it is given. -/
theorem run_dec_exp (hin : s.inputs = .host (.write 0x00C 4 0x00000002#32) :: .respond d :: rest) (k : Nat) :
    Sys2Proof.core.run (k + 2) s = Sys2Proof.core.run k (decExpDone rest s) := by
  have haccept : step s = .next (startDecrypt .decExp (writeTaken (.respond d :: rest) s)) :=
    (stepRunsTheDecodedCommand s _ .dec _ hin (decode_encode .dec)).trans (exec_dec_accepted hidle hkey)
  have hrespond := calc
    step (startDecrypt .decExp (writeTaken (.respond d :: rest) s))
        = serviceStep d (startDecrypt .decExp (writeTaken rest s)) := step_event (e := .respond d) rfl
    _ = .next (decExpDone rest s) :=
        (exponentiationStatesWriteX (startDecrypt .decExp (writeTaken rest s)) d hn2).2 rfl rfl
  rw [run_step _ haccept, run_step _ hrespond]

include hn

/-- Where L of the power is defined, DEC_L and DEC_MUL compute the result from it (R520, R521). -/
theorem run_dec_exact (hx : decPower s ≠ 0) (hexact : (decPower s - 1) % s.buf.n = 0)
    (hin : s.inputs = .host (.write 0x00C 4 0x00000002#32) :: .respond d :: .fsm :: .fsm :: rest) :
    ∃ t, Sys2Proof.core.run 4 s = .next t ∧ t.fsm = .idle ∧ t.inputs = rest
      ∧ t.status.done = true ∧ t.status.err = false ∧ t.status.resultValid = true
      ∧ t.buf.x = decPower s ∧ t.buf.m = (decPower s - 1) / s.buf.n * s.buf.u % s.buf.n
      ∧ t.status.movf = decide (2 ^ (8 * s.regs.ptbs.toNat) ≤ t.buf.m) := by
  have hdivide := calc
    step (decExpDone (.fsm :: .fsm :: rest) s) = fsmStep (decExpDone (.fsm :: rest) s) := step_event (e := .fsm) rfl
    _ = .next (decLDone (.fsm :: rest) s) :=
        (decLNeedsAnExactDivision (decExpDone (.fsm :: rest) s) rfl hn).2 hx hexact
  have hmultiply : step (decLDone (.fsm :: rest) s) = fsmStep (decLDone rest s) := step_event (e := .fsm) rfl
  rw [(decMulWritesTheResult (decLDone rest s) rfl hn).2] at hmultiply
  rw [run_dec_exp hidle hkey hn2 hin, run_step _ hdivide, run_step _ hmultiply, run_zero]
  exact ⟨_, rfl, rfl, rfl, rfl, rfl, rfl, rfl, rfl, rfl⟩

/-- Where L of the power is not defined, DEC_L ends the command (R520). -/
theorem run_dec_inexact (hx : decPower s = 0 ∨ (decPower s - 1) % s.buf.n ≠ 0)
    (hin : s.inputs = .host (.write 0x00C 4 0x00000002#32) :: .respond d :: .fsm :: rest) :
    Sys2Proof.core.run 3 s = .next (raiseError .decNonexact (decExpDone rest s)) := by
  have hdivide := calc
    step (decExpDone (.fsm :: rest) s) = fsmStep (decExpDone rest s) := step_event (e := .fsm) rfl
    _ = .next (raiseError .decNonexact (decExpDone rest s)) :=
        (decLNeedsAnExactDivision (decExpDone rest s) rfl hn).1 hx
  rw [run_dec_exp hidle hkey hn2 hin, run_step _ hdivide, run_zero]

end

/-- Settles O56: KEY_PRIV fixes N2 as the square of N, and the power decides between the two runs. -/
theorem decComputesTheFormula : Obligations.DecComputesTheFormula := by
  intro s d rest hidle hkey hinv hin x
  obtain ⟨htwo, -, hsq, -⟩ := hinv.privKey hkey
  have hn : 1 ≤ s.buf.n := by omega
  have hn2 : 1 ≤ s.buf.n2 := hsq ▸ Nat.mul_pos hn hn
  have hpower : decPower s = x := by rw [decPower, hsq]
  rw [← hpower]
  refine ⟨?_, fun hinexact => ?_⟩
  · rintro hx hexact rest' rfl
    exact run_dec_exact hidle hkey hn hn2 hx hexact hin
  · exact ⟨_, run_dec_inexact hidle hkey hn hn2 hinexact hin, rfl, rfl, rfl, rfl, rfl, rfl, rfl⟩

end Sys2Proof.Machine
end

section
/-! SUPPORT. Paillier's scheme (R530): the powers modulo N and modulo its square, and what a DEC of a ciphertext under
a generated key leaves in M. -/

namespace Sys2Proof.Machine

/-! Powers modulo a product of two primes -/

theorem pow_modEq_one_of_dvd {r n a b : Nat} (h : r ^ a ≡ 1 [MOD n]) (hab : a ∣ b) : r ^ b ≡ 1 [MOD n] := by
  obtain ⟨k, rfl⟩ := hab
  simpa [pow_mul] using h.pow k

/-- Carmichael: the least common multiple of `p - 1` and `q - 1` is an exponent of the units modulo `p * q`. -/
theorem pow_lcmOf_modEq_one {p q r : Nat} (hp : p.Prime) (hq : q.Prime) (hpq : p ≠ q) (hr : r.Coprime (p * q)) :
    r ^ lcmOf (p - 1) (q - 1) ≡ 1 [MOD p * q] := by
  have hmodp := Nat.ModEq.pow_card_sub_one_eq_one hp hr.coprime_mul_right_right
  have hmodq := Nat.ModEq.pow_card_sub_one_eq_one hq hr.coprime_mul_left_right
  exact (Nat.modEq_and_modEq_iff_modEq_mul ((Nat.coprime_primes hp hq).mpr hpq)).mp
    ⟨pow_modEq_one_of_dvd hmodp (Nat.dvd_lcm_left _ _), pow_modEq_one_of_dvd hmodq (Nat.dvd_lcm_right _ _)⟩

/-! Powers modulo the square of the modulus -/

/-- An `n`-th power of a number that is 1 modulo `n` is 1 modulo the square: the blinding factor cancels. -/
theorem pow_self_modEq_one {a n : Nat} (h : a ≡ 1 [MOD n]) : a ^ n ≡ 1 [MOD n * n] := by
  have hdvd : (n : ℤ) ∣ a - 1 := by simpa using Nat.modEq_iff_dvd.mp h.symm
  have hpow := dvd_sub_pow_of_dvd_sub hdvd 1
  refine (Nat.modEq_iff_dvd.mpr ?_).symm
  simpa [pow_two] using hpow

/-- The binomial expansion stops after the linear term modulo the square. -/
theorem one_add_mul_pow_modEq (l n m : Nat) : (1 + l * n) ^ m ≡ 1 + m * l * n [MOD n * n] := by
  induction m with
  | zero => simp [Nat.ModEq.refl]
  | succ m ih => calc
      (1 + l * n) ^ (m + 1) ≡ (1 + m * l * n) * (1 + l * n) [MOD n * n] := by rw [pow_succ]; exact ih.mul_right _
      _ = 1 + (m + 1) * l * n + n * n * (m * l * l) := by ring
      _ ≡ 1 + (m + 1) * l * n [MOD n * n] := Nat.add_mul_mod_self_left _ _ _

/-- The power of a ciphertext: its exponent kills the blinding factor and leaves `m` times the `l` of `g`. -/
theorem ciphertext_pow_modEq {c g r m n l e : Nat} (hc : c ≡ g ^ m * r ^ n [MOD n * n])
    (hg : g ^ e ≡ 1 + l * n [MOD n * n]) (hr : r ^ e ≡ 1 [MOD n]) : c ^ e ≡ 1 + m * l * n [MOD n * n] := calc
  c ^ e ≡ (g ^ m * r ^ n) ^ e [MOD n * n] := hc.pow e
  _ = (g ^ e) ^ m * (r ^ e) ^ n := by ring
  _ ≡ (1 + l * n) ^ m * 1 [MOD n * n] := (hg.pow m).mul (pow_self_modEq_one hr)
  _ = (1 + l * n) ^ m := mul_one _
  _ ≡ 1 + m * l * n [MOD n * n] := one_add_mul_pow_modEq l n m

/-- The remainder of `1 + k * n` by the square of `n`. -/
theorem one_add_mul_mod_sq {n : Nat} (hn : 2 ≤ n) (k : Nat) : (1 + k * n) % (n * n) = 1 + k % n * n := by
  have hcongr : 1 + k % n * n ≡ 1 + k * n [MOD n * n] := ((Nat.mod_modEq k n).mul_right' n).add_left 1
  have hk : k % n + 1 ≤ n := Nat.mod_lt k (by omega)
  have hlt : 1 + k % n * n < n * n := by nlinarith
  rw [← hcongr, Nat.mod_eq_of_lt hlt]

/-! DEC of a ciphertext -/

/-- Where L is defined, the number is 1 more than L's multiple of the modulus (R13). -/
theorem eq_one_add_lFun_mul {x n : Nat} (h : lDefined x n = true) : x = 1 + lFun x n * n := by
  obtain ⟨hx, hexact⟩ := (lDefined_iff x n).mp h
  have hdiv : lFun x n * n = x - 1 := Nat.div_mul_cancel (Nat.dvd_of_mod_eq_zero hexact)
  omega

/-- L of the power of G by LAMBDA, which U inverts (R416, R420). -/
abbrev keyL (s : State) : Nat := lFun (modexp s.buf.g s.buf.lambda s.buf.n2) s.buf.n

theorem two_le_n_of_primes {s : State} (hgen : GeneratedKey s) (hp : s.hid.p.Prime) (hq : s.hid.q.Prime) :
    2 ≤ s.buf.n := by
  obtain ⟨hn, -⟩ := hgen
  rw [hn]
  nlinarith [hp.two_le, hq.two_le]

theorem pow_g_modEq {s : State} (hn2 : 1 ≤ s.buf.n2)
    (hdef : lDefined (modexp s.buf.g s.buf.lambda s.buf.n2) s.buf.n = true) :
    s.buf.g ^ s.buf.lambda ≡ 1 + keyL s * s.buf.n [MOD s.buf.n2] := calc
  s.buf.g ^ s.buf.lambda ≡ s.buf.g ^ s.buf.lambda % s.buf.n2 [MOD s.buf.n2] := (Nat.mod_modEq _ _).symm
  _ = modexp s.buf.g s.buf.lambda s.buf.n2 := (modexp_eq_pow_mod _ _ _ hn2).symm
  _ = 1 + keyL s * s.buf.n := eq_one_add_lFun_mul hdef

section
variable {s : State} {m r : Nat} (hgen : GeneratedKey s) (hp : s.hid.p.Prime) (hq : s.hid.q.Prime)
  (hr : r.Coprime s.buf.n) (hc : s.buf.c ≡ s.buf.g ^ m * r ^ s.buf.n [MOD s.buf.n2])
include hgen hp hq hr hc

theorem decPower_of_ciphertext : decPower s = 1 + m * keyL s % s.buf.n * s.buf.n := by
  have htwo := two_le_n_of_primes hgen hp hq
  obtain ⟨hn, hpq, hsq, hlambda, -, -, hdef, -, -⟩ := hgen
  have hg := pow_g_modEq (hsq ▸ Nat.mul_pos (by omega) (by omega)) hdef
  have hblind : r ^ s.buf.lambda ≡ 1 [MOD s.buf.n] := by
    rw [hn] at hr ⊢
    rw [hlambda]
    exact pow_lcmOf_modEq_one hp hq hpq hr
  have hpower : s.buf.c ^ s.buf.lambda ≡ 1 + m * keyL s * s.buf.n [MOD s.buf.n * s.buf.n] :=
    ciphertext_pow_modEq (hsq ▸ hc) (hsq ▸ hg) hblind
  rw [decPower, hsq, hpower, one_add_mul_mod_sq htwo]

/-- A DEC under a generated key with prime factors takes the exponent of G out of C, whatever the blinding factor. -/
theorem run_dec_ciphertext {d : Nat} {rest : List Event} (hidle : s.fsm = .idle) (hkey : s.status.keyPriv = true)
    (hin : s.inputs = .host (.write 0x00C 4 0x00000002#32) :: .respond d :: .fsm :: .fsm :: rest) :
    ∃ t, Sys2Proof.core.run 4 s = .next t ∧ t.status.done = true ∧ t.status.resultValid = true
      ∧ t.buf.m = m % s.buf.n := by
  have hpower := decPower_of_ciphertext hgen hp hq hr hc
  have htwo := two_le_n_of_primes hgen hp hq
  obtain ⟨-, -, hsq, -, -, -, -, hcoprime, hu⟩ := hgen
  have hquotient : decPower s - 1 = m * keyL s % s.buf.n * s.buf.n := by omega
  have hexact : (decPower s - 1) % s.buf.n = 0 := by rw [hquotient]; exact Nat.mul_mod_left _ _
  have hn2 : 1 ≤ s.buf.n2 := hsq ▸ Nat.mul_pos (by omega) (by omega)
  obtain ⟨t, hrun, -, -, hdone, -, hvalid, -, hm, -⟩ :=
    run_dec_exact hidle hkey (by omega) hn2 (by omega) hexact hin
  refine ⟨t, hrun, hdone, hvalid, hm.trans ?_⟩
  rw [hquotient, Nat.mul_div_cancel _ (by omega), hu]
  calc
    m * keyL s % s.buf.n * modinv (keyL s) s.buf.n ≡ m * keyL s * modinv (keyL s) s.buf.n [MOD s.buf.n] :=
      (Nat.mod_modEq _ _).mul_right _
    _ = m * (keyL s * modinv (keyL s) s.buf.n) := mul_assoc _ _ _
    _ ≡ m * 1 [MOD s.buf.n] := (mul_modinv_modEq_one (by omega) hcoprime).mul_left m
    _ = m := mul_one m

end

/-- Settles O57: C is a ciphertext of `m`, and `m` is below N. -/
theorem decryptionInvertsEncryption : Obligations.DecryptionInvertsEncryption := by
  intro s m r d rest hidle hkey hgen hp hq hm _ _ hr hc hin
  have hcipher : s.buf.c ≡ s.buf.g ^ m * r ^ s.buf.n [MOD s.buf.n2] := by rw [hc]; exact Nat.mod_modEq _ _
  obtain ⟨t, hrun, hdone, hvalid, hresult⟩ := run_dec_ciphertext hgen hp hq hr hcipher hidle hkey hin
  exact ⟨t, hrun, hdone, hvalid, hresult.trans (Nat.mod_eq_of_lt hm)⟩

/-- Settles O58: the product is a ciphertext of the sum, with the product of the blinding factors. -/
theorem decryptionAddsPlaintexts : Obligations.DecryptionAddsPlaintexts := by
  intro s m₁ m₂ r₁ r₂ d rest hidle hkey hgen hp hq _ _ _ _ hr₁ _ _ hr₂ hc hin
  have hcipher : s.buf.c ≡ s.buf.g ^ (m₁ + m₂) * (r₁ * r₂) ^ s.buf.n [MOD s.buf.n2] := calc
    s.buf.c ≡ (s.buf.g ^ m₁ * r₁ ^ s.buf.n % s.buf.n2) * (s.buf.g ^ m₂ * r₂ ^ s.buf.n % s.buf.n2)
        [MOD s.buf.n2] := by rw [hc]; exact Nat.mod_modEq _ _
    _ ≡ (s.buf.g ^ m₁ * r₁ ^ s.buf.n) * (s.buf.g ^ m₂ * r₂ ^ s.buf.n) [MOD s.buf.n2] :=
      (Nat.mod_modEq _ _).mul (Nat.mod_modEq _ _)
    _ = s.buf.g ^ (m₁ + m₂) * (r₁ * r₂) ^ s.buf.n := by ring
  exact run_dec_ciphertext hgen hp hq (Nat.Coprime.mul_left hr₁ hr₂) hcipher hidle hkey hin

end Sys2Proof.Machine
end

section
/-! SUPPORT. The control commands (42_control.md): what NOP, CLRSTAT, ABORT and ZEROIZE do in IDLE and while a command
runs (R610 to R613). -/

namespace Sys2Proof.Machine

/-! In IDLE the BUSY check goes on to the command's own effect -/

theorem exec_nop_idle {s : State} (hidle : s.fsm = .idle) : exec .nop s = .next s := by
  rw [exec, execNop, ifIdle_of_fsm_idle hidle]

theorem exec_clrstat_idle {s : State} (hidle : s.fsm = .idle) : exec .clrstat s = .next (clearStatus s) := by
  rw [exec, execClrstat, ifIdle_of_fsm_idle hidle]

theorem exec_zeroize_idle {s : State} (hidle : s.fsm = .idle) : exec .zeroize s = .next (complete (eraseAll s)) := by
  rw [exec, execZeroize, ifIdle_of_fsm_idle hidle]

/-! ABORT is not under that check: it ends the running command, or finds none -/

theorem exec_abort_idle {s : State} (hidle : s.fsm = .idle) : exec .abort s = .next s :=
  if_neg (by simp [(not_busy_iff s).mpr hidle])

theorem exec_abort_busy {s : State} (hrun : s.fsm ≠ .idle) : exec .abort s = .next (raiseError .aborted s) :=
  if_pos ((busy_iff s).mpr hrun)

/-- Settles O7: NOP has no effect in IDLE, and by O16 it is dropped while a command runs. -/
theorem nopChangesNothing : Obligations.NopChangesNothing := fun s =>
  ⟨exec_nop_idle, fun hrun => commandsAreDroppedWhileBusy s .nop hrun (by decide)⟩

/-- Settles O8: CLRSTAT is the clearing of the outcome in IDLE, and by O16 it is dropped while a command runs. -/
theorem clrstatClearsTheOutcomeOnly : Obligations.ClrstatClearsTheOutcomeOnly := fun s =>
  ⟨exec_clrstat_idle, fun hrun => commandsAreDroppedWhileBusy s .clrstat hrun (by decide)⟩

/-- Settles O9: ABORT is the error completion of R710 exactly while a command runs. -/
theorem abortEndsTheRunningCommand : Obligations.AbortEndsTheRunningCommand := fun _ =>
  ⟨exec_abort_idle, exec_abort_busy⟩

/-- Settles O10: ZEROIZE is the erasure with the success completion of R711 in IDLE, and by O16 it is dropped while a
command runs. -/
theorem zeroizeErasesEverything : Obligations.ZeroizeErasesEverything := fun s =>
  ⟨exec_zeroize_idle, fun hrun => commandsAreDroppedWhileBusy s .zeroize hrun (by decide)⟩

end Sys2Proof.Machine
end

section
/-! SUPPORT. Exceptions and interrupts (60_exceptions.md): what a completion records (R710, R711), an ABORT against the
completing step (R721), and what clears a pending interrupt (R123, R740). -/

namespace Sys2Proof.Machine

/-- Settles O6: both completions enter IDLE, whose request is none. -/
theorem completionsRecordTheOutcome : Obligations.CompletionsRecordTheOutcome := fun _ _ => ⟨rfl, rfl⟩

/-! ABORT and the completing step -/

theorem fsmStep_idle {s : State} (hidle : s.fsm = .idle) : fsmStep s = .next s := by
  unfold fsmStep; rw [hidle]

theorem step_fsm {s : State} {rest : List Event} (hin : s.inputs = .fsm :: rest) :
    step s = fsmStep { s with inputs := rest } :=
  step_event hin

theorem step_abort {s : State} {rest : List Event}
    (hin : s.inputs = .host (.write 0x00C 4 0x00000005#32) :: rest) : step s = exec .abort (writeTaken rest s) :=
  stepRunsTheDecodedCommand s _ .abort _ hin (decode_encode .abort)

/-- The completing step of a decryption, with `rest` still queued (R521, R711). -/
theorem step_decMul {s : State} {rest : List Event} (at_ : s.fsm = .decMul) (hn : 1 ≤ s.buf.n)
    (hin : s.inputs = .fsm :: rest) :
    ∃ t, step s = .next t ∧ t.fsm = .idle ∧ t.inputs = rest ∧ t.status.done = true ∧ t.status.err = false
      ∧ t.status.errCode = .none ∧ t.buf.m = s.hid.lv * s.buf.u % s.buf.n :=
  ⟨_, (step_fsm hin).trans (decMulWritesTheResult { s with inputs := rest } at_ hn).2, rfl, rfl, rfl, rfl, rfl, rfl⟩

/-- Settles O59: the event that comes first ends the command, and the other finds the block in IDLE, where it does
nothing. -/
theorem abortRacesCompletion : Obligations.AbortRacesCompletion := by
  intro s rest at_ hn
  refine ⟨fun hin => ?_, fun hin => ?_⟩
  · obtain ⟨t, hfinish, hidle, hin', houtcome⟩ := step_decMul at_ hn hin
    have habort := (step_abort hin').trans (exec_abort_idle hidle)
    rw [run_step 1 hfinish, run_step 0 habort, run_zero]
    exact ⟨_, rfl, hidle, houtcome⟩
  · have hrun : s.fsm ≠ .idle := by rw [at_]; decide
    have habort := (step_abort hin).trans (exec_abort_busy hrun)
    have hturn := (step_fsm (s := raiseError .aborted (writeTaken (.fsm :: rest) s)) rfl).trans (fsmStep_idle rfl)
    rw [run_step 1 habort, run_step 0 hturn, run_zero]
    exact ⟨_, rfl, rfl, rfl, rfl, rfl, rfl⟩

/-! Pending interrupts -/

/-- Every interrupt pending before is pending after. -/
abbrev KeepsPending (s t : State) : Prop := s.regs.irqStat &&& t.regs.irqStat = s.regs.irqStat

theorem keepsPending_of_eq {s t : State} (h : t.regs.irqStat = s.regs.irqStat) : KeepsPending s t := by
  rw [KeepsPending, h, BitVec.and_self]

theorem KeepsPending.getLsbD {s t : State} (h : KeepsPending s t) {i : Nat}
    (hi : s.regs.irqStat.getLsbD i = true) : t.regs.irqStat.getLsbD i = true := by
  rw [← h, BitVec.getLsbD_and, Bool.and_eq_true] at hi
  exact hi.2

theorem keepsPending_exec {i : Instr} {s t : State} (h : exec i s = .next t) : KeepsPending s t := by
  cases exec_effect h with
  | outcome i only =>
    obtain ⟨done, err, ovr, errCode, irqStat, fsm, req, kept⟩ := only
    exact kept
  | keygen | dec | decx => exact keepsPending_of_eq rfl
  | loadpriv | zeroize => exact and_or_same _ _

theorem keepsPending_ifIdle {s t : State} {k : State → Result} (hk : k s = .next t → KeepsPending s t)
    (h : ifIdle s k = .next t) : KeepsPending s t := by
  rcases ifIdle_next h with ⟨-, rfl⟩ | ⟨-, h⟩
  · exact keepsPending_of_eq rfl
  · exact hk h

theorem keepsPending_cmdWrite {v : Word} {s t : State} (h : cmdWrite v s = .next t) : KeepsPending s t := by
  cases hd : decode v with
  | ok i => exact keepsPending_exec (cmdWrite_of_ok hd s ▸ h)
  | error e =>
    rw [cmdWrite_of_error hd] at h
    refine keepsPending_ifIdle (fun h => ?_) h
    cases h; exact and_or_same _ _

theorem keepsPending_regWrite {r : Reg} (hr : r ≠ .irqStat) {v : Word} {s t : State} (h : regWrite r v s = .next t) :
    KeepsPending s t := by
  cases r with
  | irqStat => exact absurd rfl hr
  | cmd => exact keepsPending_cmdWrite h
  | keybits =>
    rw [regWrite_keybits] at h
    exact keepsPending_ifIdle (fun h => by cases h; exact keepsPending_of_eq rfl) h
  | certainty =>
    rw [regWrite_certainty] at h
    exact keepsPending_ifIdle (fun h => by cases h; exact keepsPending_of_eq rfl) h
  | _ => cases h; exact keepsPending_of_eq rfl

theorem keepsPending_bufWrite (b : Buf) (i : Nat) (v : Word) (s : State) : KeepsPending s (bufWrite b i v s) :=
  keepsPending_of_eq (by rw [bufWrite_regs])

/-- An aligned write anywhere but at IRQ_STAT clears no interrupt. -/
theorem keepsPending_busWrite {off : Nat} (h4 : off % 4 = 0) (hoff : off ≠ 0x030) {v : Word} {s t : State}
    (h : busWrite off v s = .next t) : KeepsPending s t := by
  cases hreg : regionOf s.build off with
  | reg r =>
    have hr : r ≠ .irqStat := by
      rintro rfl
      exact hoff (regionOf_eq_reg hreg h4)
    exact keepsPending_regWrite hr (busWrite_reg hreg ▸ h)
  | buf b i =>
    rw [busWrite_buf hreg] at h
    split at h
    · refine keepsPending_ifIdle (fun h => ?_) h
      cases h; exact keepsPending_bufWrite b i v s
    · cases h; exact keepsPending_of_eq rfl
  | reserved => rw [busWrite_reserved hreg] at h; cases h; exact keepsPending_of_eq rfl

theorem keepsPending_fsmStep {s t : State} (h : fsmStep s = .next t) : KeepsPending s t := by
  cases fsmStep_next h with
  | kgGlError | decLError | kgDone | decMul => exact and_or_same _ _
  | _ => exact keepsPending_of_eq rfl

theorem keepsPending_serviceStep {d : Nat} {s t : State} (h : serviceStep d s = .next t) : KeepsPending s t := by
  rcases serviceStep_next h with ⟨-, rfl⟩ | ⟨-, v, -, -, hdeliver⟩
  · exact keepsPending_of_eq rfl
  · cases deliver_next hdeliver with
    | kgPgenError | kgQgenError | kgGdrawError => exact and_or_same _ _
    | _ => exact keepsPending_of_eq rfl

theorem keepsPending_unscheduled {s t : State} (h : unscheduled s = .next t) : KeepsPending s t := by
  unfold unscheduled at h
  split at h
  · cases h; exact keepsPending_of_eq rfl
  · exact keepsPending_fsmStep h
  · split at h
    · exact keepsPending_serviceStep (s := { s with freeCtr := s.freeCtr + 1 }) h
    · cases h; exact keepsPending_of_eq rfl

/-- Every host access but a write of one word to IRQ_STAT clears no interrupt. -/
theorem keepsPending_hostAccess {a : Access} (ha : ∀ v, a ≠ .write 0x030 4 v) {s t : State}
    (h : hostAccess a s = .next t) : KeepsPending s t := by
  unfold hostAccess at h
  split at h
  · split at h
    · cases h
    · split at h
      · obtain ⟨-, hregs, -⟩ := busRead_sameBlock _ s
        cases h; exact keepsPending_of_eq (congrArg Regs.irqStat hregs)
      · cases h; exact keepsPending_of_eq rfl
  · split at h
    · cases h
    · split at h
      · next v _ hlegal =>
        obtain ⟨rfl, h4⟩ := (accessLegal_iff _ _).mp hlegal
        exact keepsPending_busWrite (s := { s with bus := .writeDone }) h4 (by rintro rfl; exact ha v rfl) h
      · cases h; exact keepsPending_of_eq rfl

/-- Everything that can clear an interrupt: reset, or the host's write to IRQ_STAT (R123). -/
theorem step_keepsPending {s t : State} (h : step s = .next t) :
    KeepsPending s t ∨ nextIsReset s = true
      ∨ ∃ v rest, s.inputs = .host (.write 0x030 4 v) :: rest
        ∧ t.regs.irqStat = s.regs.irqStat &&& ~~~v.extractLsb' 0 2 := by
  cases hin : s.inputs with
  | nil => rw [step_silent hin] at h; exact .inl (keepsPending_unscheduled h)
  | cons e rest =>
    rw [step_event hin] at h
    cases e with
    | host a =>
      by_cases ha : ∃ v, a = .write 0x030 4 v
      · obtain ⟨v, rfl⟩ := ha
        rw [← step_event hin, step_write_reg (r := .irqStat) hin] at h
        cases h
        exact .inr (.inr ⟨v, rest, rfl, rfl⟩)
      · exact .inl (keepsPending_hostAccess (s := { s with inputs := rest }) (not_exists.mp ha) h)
    | fsm => exact .inl (keepsPending_fsmStep (s := { s with inputs := rest }) h)
    | respond d => exact .inl (keepsPending_serviceStep (s := { s with inputs := rest }) h)
    | lateRespond d => cases h; exact .inl (keepsPending_of_eq rfl)
    | reset => exact .inr (.inl (nextIsReset_of_inputs hin))

/-- Settles O49: of all a step can be, only reset and the write to IRQ_STAT turn a bit off, and the write turns off
the bits set in its word. -/
theorem onlyTheHostAndResetClearAnInterrupt : Obligations.OnlyTheHostAndResetClearAnInterrupt := by
  intro s t i h hs ht
  rcases step_keepsPending h with hkeeps | hreset | ⟨v, rest, hin, hirq⟩
  · rw [hkeeps.getLsbD hs] at ht; cases ht
  · exact .inl hreset
  · have hi : i < 2 := BitVec.lt_of_getLsbD hs
    rw [hirq] at ht
    exact .inr ⟨v, rest, hin, by simpa [hs, hi] using ht⟩

end Sys2Proof.Machine
end

section
/-! SUPPORT. The internal buffers and latches (R128, R129, R750): no access but a command reads or writes them. -/

namespace Sys2Proof.Machine

/-- The result is a next state with the internal buffers and latches as they were, and it is the same whatever these
hold. -/
abbrev HiddenUnseen (f : State → Result) (s : State) (h : Hidden) : Prop :=
  ∃ t, f s = .next t ∧ t.hid = s.hid ∧ f { s with hid := h } = .next { t with hid := h }

theorem hiddenUnseen_same (s : State) (h : Hidden) : HiddenUnseen .next s h := ⟨s, rfl, rfl, rfl⟩

theorem hiddenUnseen_ifIdle {k : State → Result} {s : State} {h : Hidden} (hk : HiddenUnseen k s h) :
    HiddenUnseen (ifIdle · k) s h := by
  cases hbusy : s.busy with
  | true => exact ⟨_, ifIdle_busy k hbusy, rfl, ifIdle_busy (s := { s with hid := h }) k hbusy⟩
  | false =>
    obtain ⟨t, ht, hhid, ht'⟩ := hk
    exact ⟨t, (ifIdle_idle k hbusy).trans ht, hhid, (ifIdle_idle (s := { s with hid := h }) k hbusy).trans ht'⟩

theorem bufWrite_withHid (b : Buf) (i : Nat) (v : Word) (s : State) (h : Hidden) :
    bufWrite b i v { s with hid := h } = { bufWrite b i v s with hid := h } := by
  cases b <;> rfl

theorem regWord_withHid (s : State) (h : Hidden) (r : Reg) : regWord { s with hid := h } r = regWord s r := by
  cases r <;> rfl

theorem hiddenUnseen_busRead (off : Nat) (s : State) (h : Hidden) :
    HiddenUnseen (fun s => .next (busRead off s)) s h := by
  obtain ⟨-, -, -, hhid, -⟩ := busRead_sameBlock off s
  refine ⟨_, rfl, hhid, congrArg _ ?_⟩
  cases hreg : regionOf s.build off with
  | reg r => rw [busRead_reg hreg, busRead_reg (s := { s with hid := h }) hreg, regWord_withHid]
  | buf b i =>
    rw [busRead_buf hreg, busRead_buf (s := { s with hid := h }) hreg]
    cases hbusy : s.busy with
    | true => exact if_pos hbusy
    | false => exact if_neg (by simpa [State.busy] using hbusy)
  | reserved => rw [busRead_reserved hreg, busRead_reserved (s := { s with hid := h }) hreg]

theorem hiddenUnseen_regWrite {r : Reg} (hr : r ≠ .cmd) (v : Word) (s : State) (h : Hidden) :
    HiddenUnseen (regWrite r v) s h := by
  cases r with
  | cmd => exact absurd rfl hr
  | keybits | certainty => exact hiddenUnseen_ifIdle ⟨_, rfl, rfl, rfl⟩
  | _ => exact ⟨_, rfl, rfl, rfl⟩

/-- An aligned write anywhere but at CMD. -/
theorem hiddenUnseen_busWrite {off : Nat} (h4 : off % 4 = 0) (hcmd : off ≠ 0x00C) (v : Word) (s : State)
    (h : Hidden) : HiddenUnseen (busWrite off v) s h := by
  cases hreg : regionOf s.build off with
  | reg r =>
    have hr : r ≠ .cmd := by
      rintro rfl
      exact hcmd (regionOf_eq_reg hreg h4)
    rw [HiddenUnseen, busWrite_reg hreg, busWrite_reg (s := { s with hid := h }) hreg]
    exact hiddenUnseen_regWrite hr v s h
  | buf b i =>
    have hstore : HiddenUnseen (fun s => .next (bufWrite b i v s)) s h :=
      ⟨_, rfl, bufWrite_hid b i v s, congrArg _ (bufWrite_withHid b i v s h)⟩
    rw [HiddenUnseen, busWrite_buf hreg, busWrite_buf (s := { s with hid := h }) hreg]
    split
    · exact hiddenUnseen_ifIdle hstore
    · exact hiddenUnseen_same s h
  | reserved =>
    rw [HiddenUnseen, busWrite_reserved hreg, busWrite_reserved (s := { s with hid := h }) hreg]
    exact hiddenUnseen_same s h

/-- A host access inside the window, but for a write of one word to CMD. -/
theorem hiddenUnseen_hostAccess {a : Access} (hwin : a.offset < Config.window) (hcmd : ∀ v, a ≠ .write 0x00C 4 v)
    (s : State) (h : Hidden) : HiddenUnseen (hostAccess a) s h := by
  cases a with
  | read off size =>
    have hoff : ¬Config.window ≤ off := not_le.mpr hwin
    simp only [HiddenUnseen, hostAccess, if_neg hoff]
    split
    · exact hiddenUnseen_busRead off s h
    · exact ⟨_, rfl, rfl, rfl⟩
  | write off size v =>
    have hoff : ¬Config.window ≤ off := not_le.mpr hwin
    simp only [HiddenUnseen, hostAccess, if_neg hoff]
    split
    · next hlegal =>
      obtain ⟨rfl, h4⟩ := (accessLegal_iff _ _).mp hlegal
      exact hiddenUnseen_busWrite h4 (by rintro rfl; exact hcmd v rfl) v { s with bus := .writeDone } h
    · exact ⟨_, rfl, rfl, rfl⟩

/-- Settles O60: the step is the access, and no access but a command names an internal buffer or a latch. -/
theorem hiddenStateHasNoAddress : Obligations.HiddenStateHasNoAddress := by
  intro s h a rest hin hcmd hwin
  rw [step_event hin, step_event (s := { s with hid := h }) hin]
  exact hiddenUnseen_hostAccess (window_of_nextInWindow hin hwin) hcmd { s with inputs := rest } h

end Sys2Proof.Machine
end
